-- ==== Sys2Proof/Word.lean ====
section
/-! DEFINITION. The word types of the block (`00_scope.md` R10, R11). The width parameters of R8 are fields of `Config`;
a type here is as wide as the register or operand the spec names, so it holds every value of a parameter up to that
width (log entry 8). A bit_index register is the "signed counter" of R15 and holds an `Int`. -/

namespace Sys2Proof

/-- One byte of a command word (R105). -/
abbrev Byte := BitVec 8

/-- A 64-bit frame; frame index `i` is register bit `63 - i` (R12, R82). -/
abbrev Frame := BitVec 64

/-- A timestamp in µs: a `u32` operand or register (R35, R106, R141), of which `TS_W` bits are used. -/
abbrev Timestamp := BitVec 32

/-- A pulse width in µs: a `u32` (R106, R143), of which `PW_W` bits are used. -/
abbrev PulseWidth := BitVec 32

/-- A period or compare register of the channel, in µs: a `u16` (R42, R43), of which `TMR_W` bits are used. -/
abbrev Micros := BitVec 16

/-- A reference voltage in whole volts: a `u16` operand (R106, R206), of which `V_W` bits are used. -/
abbrev Volts := BitVec 16

end Sys2Proof
end

