-- ==== Sys2Proof/Config.lean ====
section
/-! DEFINITION. The implementation parameters of `00_scope.md` R8 as one configuration record.

The spec has a model take every parameter "as configuration, so a corrected value changes no rule" (R7). -/

namespace Sys2Proof

/-- `EXP_POLICY`: what LY.CURRENT and LY.POWER do with an exponent field above `EXP_MAX`
(R8, R207, decision D9, K1). -/
inductive ExpPolicy where
  /-- Raise `RANGE_ERROR(EXPONENT)`: the spec's choice. -/
  | reject
  /-- Convert with `EXP_MAX` in its place: the alternative decision D9 lets a model add. -/
  | clamp
  deriving DecidableEq, Repr

/-- The parameters of R8, one field each. Values and counts are mathematical integers (R10); a write into a register
reduces them to the register's width. What a width other than the default does is log entry 8. -/
structure Config where
  /-- `TS_W`: bits of a timestamp; timestamps are compared modulo `2 ^ TS_W` (D3, D4). -/
  tsW : Nat
  /-- `PW_W`: bits of a pulse width (D3). -/
  pwW : Nat
  /-- `BI_W`: bits of a bit_index register, signed two's complement (D6). -/
  biW : Nat
  /-- `BI_MAX`: where a bit_index increment saturates. -/
  biMax : Int
  /-- `MARKER_MIN`, µs: a pulse wider than this is a marker. -/
  markerMin : Nat
  /-- `TAIL_MAX`, µs: a tail is narrower than this. -/
  tailMax : Nat
  /-- `ONE_MIN`, µs: a data pulse wider than this is a 1. -/
  oneMin : Nat
  /-- `DATA_BITS`: the data bits of a frame. -/
  dataBits : Int
  /-- `TAIL_BITS`: the tail symbols of a frame. -/
  tailBits : Int
  /-- `LAST_INDEX`: a tail needs a bit_index above this. -/
  lastIndex : Int
  /-- `TX_START_INDEX`: the index TX.SEND starts from. -/
  txStartIndex : Int
  /-- `MARKER_PER`, µs. -/
  markerPer : Nat
  /-- `MARKER_ON`, µs. -/
  markerOn : Nat
  /-- `DATA_PER`, µs. -/
  dataPer : Nat
  /-- `DATA0_ON`, µs. -/
  data0On : Nat
  /-- `DATA1_ON`, µs. -/
  data1On : Nat
  /-- `TAIL_PER`, µs. -/
  tailPer : Nat
  /-- `TAIL_ON`, µs. -/
  tailOn : Nat
  /-- `TMR_W`: bits of a period or compare register (D13). -/
  tmrW : Nat
  /-- `REF_VOLTAGE_DEFAULT`, V: what the pseudo-instruction `LY.POWER f` supplies (R113). -/
  refVoltageDefault : Volts
  /-- `V_W`: bits of the reference voltage (D10). -/
  vW : Nat
  /-- `EXP_MAX`: the largest exponent the converters accept. -/
  expMax : Nat
  /-- `FRAC_BITS`: fractional bits of the converters' results (D10). -/
  fracBits : Nat
  /-- `EXP_POLICY`. -/
  expPolicy : ExpPolicy
  deriving DecidableEq, Repr

/-- The values of R8's table: the spec's normative defaults (R7). The timing values are nominal (R250). -/
def Config.nominal : Config where
  tsW := 32
  pwW := 32
  biW := 8
  biMax := 127
  markerMin := 400
  tailMax := 40
  oneMin := 100
  dataBits := 64
  tailBits := 1
  lastIndex := 63
  txStartIndex := -2
  markerPer := 532
  markerOn := 512
  dataPer := 198
  data0On := 130
  data1On := 55
  tailPer := 109
  tailOn := 89
  tmrW := 16
  refVoltageDefault := 240
  vW := 16
  expMax := 15
  fracBits := 15
  expPolicy := .reject

end Sys2Proof
end

