-- ==== Sys2Proof/Syntax.lean ====
section
/-! DEFINITION. The operations of the block: one constructor per row of `30_encoding.md` R107
(`spec/opcode_table.json`), with the operands of R106. -/

namespace Sys2Proof

/-- An operation of the block with its operands. Every operand value is legal (R109). -/
inductive Instr where
  /-- `RX.RISE t`, R141: a rising edge at `t` µs. -/
  | rxRise (t : Timestamp)
  /-- `RX.FALL t`, R142: a falling edge at `t` µs. -/
  | rxFall (t : Timestamp)
  /-- `RX.PULSE w`, R149: a pulse of `w` µs, given straight to the classifier. -/
  | rxPulse (w : PulseWidth)
  /-- `RX.STATUS`, R151. -/
  | rxStatus
  /-- `RX.FRAME`, R152. -/
  | rxFrame
  /-- `RX.ACK`, R153. -/
  | rxAck
  /-- `LY.BIT f, i`, R201. -/
  | lyBit (f : Frame) (i : Byte)
  /-- `LY.BYTE f, j`, R202. -/
  | lyByte (f : Frame) (j : Byte)
  /-- `LY.DECODE f`, R203. -/
  | lyDecode (f : Frame)
  /-- `LY.CSUM f`, R204. -/
  | lyCsum (f : Frame)
  /-- `LY.CURRENT f`, R205. -/
  | lyCurrent (f : Frame)
  /-- `LY.POWER f, v`, R206. -/
  | lyPower (f : Frame) (v : Volts)
  /-- `TX.INIT`, R251. -/
  | txInit
  /-- `TX.SEND f`, R252. -/
  | txSend (f : Frame)
  /-- `TX.STOP`, R253. -/
  | txStop
  /-- `TX.OVF`, R254. -/
  | txOvf
  /-- `TX.CMP`, R255. -/
  | txCmp
  deriving DecidableEq, Repr

/-- The five command formats of R106. -/
inductive Format where
  /-- `op`. -/
  | n
  /-- `op`, then a `u32` timestamp or pulse width. -/
  | t
  /-- `op`, then a `u64` frame. -/
  | f
  /-- `op`, then a `u64` frame and a `u8` index. -/
  | fi
  /-- `op`, then a `u64` frame and a `u16` voltage. -/
  | fv
  deriving DecidableEq, Repr

/-- The agents of R321, and the test harness of R107's issuer column. -/
inductive Agent where
  /-- EDGE: the platform's edge source. -/
  | edge
  /-- TIMER: the PWM channel. -/
  | timer
  /-- CONSUMER: the polling consumer. -/
  | consumer
  /-- RESET. -/
  | reset
  /-- A test harness, which may inject any operation (R107, K18). -/
  | harness
  deriving DecidableEq, Repr

end Sys2Proof
end

