-- ==== Sys2Proof/WellFormed.lean ====
section
/-! DEFINITION. The checks on what the machine is given.

An instruction needs none: "no operand value is reserved" (`30_encoding.md` R109) and the operand widths are types.
What can be ill formed is a configuration (here: the constraints of `42_tx.md` R250, and the model's own, marked) and a
command word (`Decode.lean`, `isCommandWord`). -/

namespace Sys2Proof

/-- R250 (a): every ON-duration lies strictly inside its period, and each value fits the channel's registers. -/
abbrev Config.OnInsidePeriod (c : Config) : Prop :=
  (0 < c.markerOn ∧ c.markerOn < c.markerPer ∧ c.markerPer < 2 ^ c.tmrW) ∧
  (0 < c.data0On ∧ c.data0On < c.dataPer) ∧
  (0 < c.data1On ∧ c.data1On < c.dataPer ∧ c.dataPer < 2 ^ c.tmrW) ∧
  (0 < c.tailOn ∧ c.tailOn < c.tailPer ∧ c.tailPer < 2 ^ c.tmrW)

/-- Every time constant fits the channel's `TMR_W` bits, at most 16 (R250 (a): "each below `2^16`"). -/
abbrev Config.TimesFit (c : Config) : Prop :=
  c.tmrW ≤ 16 ∧ c.markerPer < 2 ^ c.tmrW ∧ c.markerOn < 2 ^ c.tmrW ∧ c.dataPer < 2 ^ c.tmrW ∧ c.data0On < 2 ^ c.tmrW ∧
  c.data1On < 2 ^ c.tmrW ∧ c.tailPer < 2 ^ c.tmrW ∧ c.tailOn < 2 ^ c.tmrW

/-- R250 (b): the transmitted marker is wide enough to be a marker. -/
abbrev Config.MarkerIsMarker (c : Config) : Prop :=
  c.markerMin < c.markerOn

/-- R250 (c): the transmitted 1 is a data 1, and no marker. -/
abbrev Config.OneIsOne (c : Config) : Prop :=
  c.oneMin < c.dataPer - c.data1On ∧ c.dataPer - c.data1On ≤ c.markerMin

/-- R250 (d): the transmitted 0 is a data 0. -/
abbrev Config.ZeroIsZero (c : Config) : Prop :=
  c.dataPer - c.data0On ≤ c.oneMin

/-- R250 (e): the transmitted tail is narrow enough to be a tail. -/
abbrev Config.TailIsTail (c : Config) : Prop :=
  c.tailPer - c.tailOn < c.tailMax

/-- The transmitted tail is no marker. DESIGN CHOICE, the model's own constraint (log entry 23): the spec's (a) to (e) do
not state it and relate no threshold to another, but with `TAIL_MAX` far above `MARKER_MIN` they would admit a tail that
the classifier's first rule takes for a marker, and R259's round trip would fail. -/
abbrev Config.TailIsNoMarker (c : Config) : Prop :=
  c.tailPer - c.tailOn ≤ c.markerMin

/-- A frame is 64 data bits and one tail symbol, sent from index -2, and `LAST_INDEX = DATA_BITS - 1`: R8's values.
DESIGN CHOICE, the model's own constraint (log entry 23): that no other values of these parameters are admitted. -/
abbrev Config.FrameShape (c : Config) : Prop :=
  c.dataBits = 64 ∧ c.tailBits = 1 ∧ c.lastIndex = c.dataBits - 1 ∧ c.txStartIndex = -2

/-- `BI_MAX` fits `BI_W` signed bits (R13: "written back as `s8`"). DESIGN CHOICE, the model's own constraint (log entry
23): that it leaves room for the whole "conceptual range -2..66". -/
abbrev Config.CounterRange (c : Config) : Prop :=
  66 ≤ c.biMax ∧ c.biMax < 2 ^ (c.biW - 1)

/-- The converters' exponent stays in R205's `[0,15]`. DESIGN CHOICE, the model's own constraint (log entry 23): that no
larger `EXP_MAX` is admitted. -/
abbrev Config.ExponentRange (c : Config) : Prop :=
  c.expMax ≤ 15

/-- The other width parameters. DESIGN CHOICE, the model's own constraint (log entry 23): each is at most as wide as the
operand or register the spec gives it (R42, R106), a timestamp's half range holds two periods of the channel, so that no
pulse of a transmission is taken for a stale edge, a pulse width holds every timestamp difference, and the converters'
results are exact and fit 64 bits. -/
abbrev Config.WidthRange (c : Config) : Prop :=
  (c.tmrW + 2 ≤ c.tsW ∧ c.tsW ≤ c.pwW ∧ c.pwW ≤ 32) ∧ c.tmrW ≤ 16 ∧ c.vW ≤ 16 ∧ 15 ≤ c.fracBits ∧ c.fracBits ≤ 32

/-- A configuration the model's claims admit: R250's constraints and the model's own (log entry 23). -/
abbrev Config.WellFormed (c : Config) : Prop :=
  c.OnInsidePeriod ∧ c.MarkerIsMarker ∧ c.OneIsOne ∧ c.ZeroIsZero ∧ c.TailIsTail ∧
  c.TailIsNoMarker ∧ c.FrameShape ∧ c.CounterRange ∧ c.ExponentRange ∧ c.WidthRange

end Sys2Proof
end

