-- ==== Sys2Proof/Decode.lean ====
section
/-! DEFINITION. Command words: the decoder and the encoder (`30_encoding.md` R105 to R110).

A command word is an opcode byte and its operands, most significant byte first. The length follows from the opcode
alone, so a string of bytes holds one command after another. -/

namespace Sys2Proof

/-- Why a string of bytes begins with no command. -/
inductive DecodeError where
  /-- There is no byte at all. -/
  | empty
  /-- `refuse ILLEGAL_OP`: the opcode is in no row of R107 (R108). -/
  | illegalOp (op : Byte)
  /-- The string ends before the last operand byte of the command its opcode begins (R106, R110). -/
  | truncated (op : Byte)
  deriving DecidableEq, Repr

/-! ### Byte order -/

/-- The `n` low bytes of `v`, most significant first (R105). -/
def beBytes : Nat → Nat → List Byte
  | 0, _ => []
  | n + 1, v => BitVec.ofNat 8 (v / 256 ^ n) :: beBytes n v

/-- The unsigned integer a string of bytes spells, most significant byte first (R105, R106). -/
def beValue (bytes : List Byte) : Nat :=
  bytes.foldl (fun acc b => acc * 256 + b.toNat) 0

/-- Reads an operand of `n` bytes, and gives back the bytes after it. -/
def takeOperand (n : Nat) (bytes : List Byte) : Option (Nat × List Byte) :=
  if n ≤ bytes.length then some (beValue (bytes.take n), bytes.drop n) else none

/-! ### The tables of R106 and R107 -/

/-- The operand bytes of a format (R106, less the opcode byte). -/
def operandBytes : Format → Nat
  | .n => 0
  | .t => 4
  | .f => 8
  | .fi => 9
  | .fv => 10

/-- The length of a command of a format, in bytes (R106, R110). -/
def commandLength (k : Format) : Nat :=
  1 + operandBytes k

/-- The opcode of an operation (R107). -/
def opcodeOf : Instr → Byte
  | .rxRise _ => 0x01
  | .rxFall _ => 0x02
  | .rxPulse _ => 0x03
  | .rxStatus => 0x04
  | .rxFrame => 0x05
  | .rxAck => 0x06
  | .lyBit _ _ => 0x11
  | .lyByte _ _ => 0x12
  | .lyDecode _ => 0x13
  | .lyCsum _ => 0x14
  | .lyCurrent _ => 0x15
  | .lyPower _ _ => 0x16
  | .txInit => 0x21
  | .txSend _ => 0x22
  | .txStop => 0x23
  | .txOvf => 0x24
  | .txCmp => 0x25

/-- The format of an opcode, or none where the opcode is illegal (R107, R108). -/
def formatOf (op : Byte) : Option Format :=
  match op.toNat with
  | 0x01 => some .t
  | 0x02 => some .t
  | 0x03 => some .t
  | 0x04 => some .n
  | 0x05 => some .n
  | 0x06 => some .n
  | 0x11 => some .fi
  | 0x12 => some .fi
  | 0x13 => some .f
  | 0x14 => some .f
  | 0x15 => some .f
  | 0x16 => some .fv
  | 0x21 => some .n
  | 0x22 => some .f
  | 0x23 => some .n
  | 0x24 => some .n
  | 0x25 => some .n
  | _ => none

/-! ### The decoder -/

/-- Format N: no operand. -/
def decodeN (i : Instr) (rest : List Byte) : Except DecodeError (Instr × List Byte) :=
  .ok (i, rest)

/-- Format T: one `u32`. -/
def decodeT (op : Byte) (k : BitVec 32 → Instr) (rest : List Byte) : Except DecodeError (Instr × List Byte) :=
  match takeOperand 4 rest with
  | none => .error (.truncated op)
  | some (t, rest') => .ok (k (BitVec.ofNat 32 t), rest')

/-- Format F: one `u64`. -/
def decodeF (op : Byte) (k : Frame → Instr) (rest : List Byte) : Except DecodeError (Instr × List Byte) :=
  match takeOperand 8 rest with
  | none => .error (.truncated op)
  | some (f, rest') => .ok (k (BitVec.ofNat 64 f), rest')

/-- Format FI: a `u64`, then a `u8`. -/
def decodeFI (op : Byte) (k : Frame → Byte → Instr) (rest : List Byte) :
    Except DecodeError (Instr × List Byte) :=
  match takeOperand 8 rest with
  | none => .error (.truncated op)
  | some (f, rest') =>
    match takeOperand 1 rest' with
    | none => .error (.truncated op)
    | some (i, rest'') => .ok (k (BitVec.ofNat 64 f) (BitVec.ofNat 8 i), rest'')

/-- Format FV: a `u64`, then a `u16`. -/
def decodeFV (op : Byte) (k : Frame → Volts → Instr) (rest : List Byte) :
    Except DecodeError (Instr × List Byte) :=
  match takeOperand 8 rest with
  | none => .error (.truncated op)
  | some (f, rest') =>
    match takeOperand 2 rest' with
    | none => .error (.truncated op)
    | some (v, rest'') => .ok (k (BitVec.ofNat 64 f) (BitVec.ofNat 16 v), rest'')

/-- Looks an opcode up and reads its operands from the bytes after it (R107, R108, R110). -/
def decodeOperands (op : Byte) (rest : List Byte) : Except DecodeError (Instr × List Byte) :=
  match op.toNat with
  | 0x01 => decodeT op .rxRise rest
  | 0x02 => decodeT op .rxFall rest
  | 0x03 => decodeT op .rxPulse rest
  | 0x04 => decodeN .rxStatus rest
  | 0x05 => decodeN .rxFrame rest
  | 0x06 => decodeN .rxAck rest
  | 0x11 => decodeFI op .lyBit rest
  | 0x12 => decodeFI op .lyByte rest
  | 0x13 => decodeF op .lyDecode rest
  | 0x14 => decodeF op .lyCsum rest
  | 0x15 => decodeF op .lyCurrent rest
  | 0x16 => decodeFV op .lyPower rest
  | 0x21 => decodeN .txInit rest
  | 0x22 => decodeF op .txSend rest
  | 0x23 => decodeN .txStop rest
  | 0x24 => decodeN .txOvf rest
  | 0x25 => decodeN .txCmp rest
  | _ => .error (.illegalOp op)

/-- Decodes the first command of a string of bytes: "a decoder reads the first byte and looks it up" (R110).
It gives the operation and the bytes after its word. -/
def decode : List Byte → Except DecodeError (Instr × List Byte)
  | [] => .error .empty
  | op :: rest => decodeOperands op rest

/-! ### The encoder -/

/-- The operand bytes of an operation, in R106's order of fields. -/
def operandsOf : Instr → List Byte
  | .rxRise t => beBytes 4 t.toNat
  | .rxFall t => beBytes 4 t.toNat
  | .rxPulse w => beBytes 4 w.toNat
  | .rxStatus => []
  | .rxFrame => []
  | .rxAck => []
  | .lyBit f i => beBytes 8 f.toNat ++ beBytes 1 i.toNat
  | .lyByte f j => beBytes 8 f.toNat ++ beBytes 1 j.toNat
  | .lyDecode f => beBytes 8 f.toNat
  | .lyCsum f => beBytes 8 f.toNat
  | .lyCurrent f => beBytes 8 f.toNat
  | .lyPower f v => beBytes 8 f.toNat ++ beBytes 2 v.toNat
  | .txInit => []
  | .txSend f => beBytes 8 f.toNat
  | .txStop => []
  | .txOvf => []
  | .txCmp => []

/-- The command word of an operation (R105). -/
def encode (i : Instr) : List Byte :=
  opcodeOf i :: operandsOf i

/-- Whether a string of bytes is exactly one command word: a legal opcode and the length its format has (R106, R110). -/
def isCommandWord : List Byte → Bool
  | [] => false
  | op :: rest =>
    match formatOf op with
    | none => false
    | some k => rest.length == operandBytes k

/-! ### The numbering of `spec/opcode_table.json` -/

/-- The longest command, in bytes: format FV (R106). -/
def longestCommand : Nat := 11

/-- Cuts a string of bytes to the command its first byte begins; an illegal opcode's string is left whole. -/
def oneCommand : List Byte → List Byte
  | [] => []
  | op :: rest =>
    match formatOf op with
    | none => op :: rest
    | some k => op :: rest.take (operandBytes k)

/-- The command word whose bits are `w`, byte `k` of it being bits `8k+7 .. 8k` of `w`, the bits from `nbits` up
being 0, cut to the length its opcode gives it. -/
def tableWordBytes (nbits w : Nat) : List Byte :=
  oneCommand ((List.range longestCommand).map fun k => BitVec.ofNat 8 (w % 2 ^ nbits / 256 ^ k))

/-- What the decoder reads from a word numbered as `spec/opcode_table.json` numbers it. -/
def decodeTableWord (nbits w : Nat) : Option Instr :=
  match decode (tableWordBytes nbits w) with
  | .ok (i, _) => some i
  | .error _ => none

end Sys2Proof
end

