-- ==== Sys2Proof/Machine/Flags.lean ====
section
/-! DEFINITION. The status values of the block: the state registers' encoding (`10_state.md` R45), the RX status word
(R46), the classifier's conditions (`30_encoding.md` R102), and the level of the output line (`60_exceptions.md`
R314). -/

namespace Sys2Proof.Machine

open Sys2Proof

/-- ReceiverState and TransmitterState: "each an enumeration {IDLE, RUN, STOP}" (R15, R33, R39). -/
inductive UnitState where
  | idle
  | run
  | stop
  deriving DecidableEq, Repr

/-- The encoding of R45: IDLE = 0, RUN = 1, STOP = 2. -/
def UnitState.code : UnitState → BitVec 2
  | .idle => 0
  | .run => 1
  | .stop => 2

/-- What a state register holds; none for the reserved value 3 (R45). -/
def UnitState.ofCode (r : BitVec 2) : Option UnitState :=
  if r = 0 then some .idle
  else if r = 1 then some .run
  else if r = 2 then some .stop
  else none

/-- The RX status word of R46: `[15:8]` bit_index as its 8-bit pattern, `[7:3]` zero, `[2:1]` state, `[0]` done. -/
def rxStatusWord (bitIndex : Int) (state : BitVec 2) (done : Bool) : BitVec 16 :=
  BitVec.ofInt 8 bitIndex ++ (0 : BitVec 5) ++ state ++ BitVec.ofBool done

/-- Rule 1 of the classifier: "`pulse_width > 400`" is a marker (R143). -/
def isMarker (c : Config) (w : PulseWidth) : Bool :=
  c.markerMin < w.toNat

/-- Rule 2 of the classifier: "`pulse_width < 40 AND bit_index > 63`" is a tail (R143). -/
def isTail (c : Config) (w : PulseWidth) (bitIndex : Int) : Bool :=
  w.toNat < c.tailMax && c.lastIndex < bitIndex

/-- Rule 3 of the classifier: a data pulse is a 1 "if `pulse_width > 100` else 0" (R143). -/
def isOne (c : Config) (w : PulseWidth) : Bool :=
  c.oneMin < w.toNat

/-- Whether a falling edge exceeds the latest rising one: `0 < d < 2^(TS_W - 1)` for their difference `d` modulo
`2^TS_W` (R142, decision D4). -/
def fallExceedsRise (c : Config) (d : PulseWidth) : Bool :=
  0 < d.toNat && d.toNat < 2 ^ (c.tsW - 1)

/-- The output level `τ` µs into a period, `(1 if τ < CC else 0) XOR INV` (R314). From `τ = PER` on, the level of the
period's last instant stands. -/
def waveLevel (per cc : Micros) (inv : Bool) (τ : Nat) : Bool :=
  xor (decide (min τ (per.toNat - 1) < cc.toNat)) inv

end Sys2Proof.Machine
end

