-- ==== Sys2Proof/Machine/Operands.lean ====
section
/-! DEFINITION. What the operations read out of their operands and registers: frame bits, bytes and fields
(`00_scope.md` R12, `30_encoding.md` R100), the additive checksum, the converters' arithmetic, and the counter
increment (R13). All of it is pure. -/

namespace Sys2Proof.Machine

open Sys2Proof

/-- A value reduced modulo `2^k`: what `k` bits hold of it (R10). -/
def lowBits {w : Nat} (k : Nat) (v : BitVec w) : BitVec w :=
  BitVec.ofNat w (v.toNat % 2 ^ k)

/-- A number reduced to `k` bits, signed two's complement (R10). -/
def signedBits (k : Nat) (x : Int) : Int :=
  x.bmod (2 ^ k)

/-- A parameter as a period or compare register of `TMR_W` bits takes it (R42, R43). -/
def timerWord (c : Config) (us : Nat) : Micros :=
  BitVec.ofNat 16 (us % 2 ^ c.tmrW)

/-- The difference of two timestamps modulo `2^TS_W` (R142, D4). -/
def timestampDiff (c : Config) (t r : Timestamp) : PulseWidth :=
  lowBits c.tsW (t - r)

/-- `FrameBit(f, i) = f[63 - i]` for `i <= 63` (R12): frame index 0 is the most significant bit (R82).
R12 defines no bit above 63. DESIGN CHOICE (log entry 20): there the function reads register bit 0. Only TX.CMP asks for
one, in a configuration with `DATA_BITS` above 64, which is not well formed. -/
def frameBit (f : Frame) (i : Nat) : BitVec 1 :=
  f.extractLsb' (63 - i) 1

/-- `FrameByte(f, j) = f[63 - 8j : 56 - 8j]` for `j <= 7` (R12): frame byte 0 is the most significant byte (R83). -/
def frameByte (f : Frame) (j : Nat) : Byte :=
  f.extractLsb' (56 - 8 * j) 8

/-- The record LY.DECODE returns (R111, R203). -/
structure FrameRecord where
  /-- `sync_bits`, 8 bits. -/
  syncBits : BitVec 8
  /-- `ID`, 16 bits. -/
  id : BitVec 16
  /-- `pairing`, 1 bit. -/
  pairing : BitVec 1
  /-- `interval`, 2 bits. -/
  interval : BitVec 2
  /-- `battery`, 1 bit. -/
  battery : BitVec 1
  /-- `unused`, 4 bits, as received. -/
  unused : BitVec 4
  /-- `current_raw`, 16 bits. -/
  currentRaw : BitVec 16
  /-- `exponent`, 8 bits. -/
  exponent : BitVec 8
  /-- `checksum`, 8 bits. -/
  checksum : BitVec 8
  deriving DecidableEq, Repr

/-- The fields of a frame, at R100's register bits. -/
def frameFields (f : Frame) : FrameRecord where
  syncBits := f.extractLsb' 56 8
  id := f.extractLsb' 40 16
  pairing := f.extractLsb' 39 1
  interval := f.extractLsb' 37 2
  battery := f.extractLsb' 36 1
  unused := f.extractLsb' 32 4
  currentRaw := f.extractLsb' 16 16
  exponent := f.extractLsb' 8 8
  checksum := f.extractLsb' 0 8

/-- The sum of the seven payload bytes, frame bytes 0 to 6, modulo 256 (R204, `90_conflicts.md` C3). -/
def payloadSum (f : Frame) : Byte :=
  frameByte f 0 + frameByte f 1 + frameByte f 2 + frameByte f 3 + frameByte f 4 + frameByte f 5 + frameByte f 6

/-- The exponent the converters use, or none where R207's policy rejects the frame. -/
def converterExponent (c : Config) (e : Byte) : Option Nat :=
  if e.toNat ≤ c.expMax then some e.toNat
  else match c.expPolicy with
    | .reject => none
    | .clamp => some c.expMax

/-- The fixed-point encoding of `n / 2^15`, with `FRAC_BITS` fractional bits, in 64 bits (R8, R205, R206): at the default
`FRAC_BITS = 15` it is `n` itself. -/
def fixedPoint (c : Config) (n : Nat) : BitVec 64 :=
  BitVec.ofNat 64 (n * 2 ^ c.fracBits / 2 ^ 15)

/-- The current: `current_raw * 1000 * 2^e / 2^15` milliamps (R205). -/
def milliamps (c : Config) (raw : BitVec 16) (e : Nat) : BitVec 64 :=
  fixedPoint c (raw.toNat * 1000 * 2 ^ e)

/-- The power: `current_raw * v * 2^e / 2^15` watts (R206), of a voltage of `V_W` bits. -/
def watts (c : Config) (raw : BitVec 16) (v : Volts) (e : Nat) : BitVec 64 :=
  fixedPoint c (raw.toNat * (lowBits c.vW v).toNat * 2 ^ e)

/-- `sat_inc(b) = min(b + 1, BI_MAX)`, written back into the register (R13). -/
def satInc (c : Config) (b : Int) : Int :=
  signedBits c.biW (min (b + 1) c.biMax)

/-- `((f << 1) mod 2^64) | b`: one data bit shifted in at register bit 0 (R31, R143). -/
def shiftIn (f : Frame) (b : Bool) : Frame :=
  (f <<< 1) ||| (BitVec.ofBool b).setWidth 64

end Sys2Proof.Machine
end

