-- ==== Sys2Proof/Machine/State.lean ====
section
/-! DEFINITION. The state of the machine: the RX context, the TX context and the PWM channel with every register the
spec names (`10_state.md`), and the model's own fields (configuration, clock, loopback, pending turns, response). -/

namespace Sys2Proof.Machine

open Sys2Proof

/-- The RX unit's registers (R30 to R36). -/
structure RxContext where
  /-- `rx_frame : u64`, the receive accumulator (R31). -/
  frame : Frame
  /-- `rx_bit_index`, a signed number of `BI_W` bits (`s8` at the default): data bits since the last marker (R32). -/
  bitIndex : Int
  /-- `rx_state : u2` (R33, R45). -/
  state : BitVec 2
  /-- `rx_done : u1`, the completion flag (R34). -/
  done : Bool
  /-- `rx_last_rise : u32`, the latest rising timestamp (R35). -/
  lastRise : Timestamp
  /-- `rx_rise_valid : u1`, set once a rising edge has been recorded (R35). -/
  riseValid : Bool
  /-- `rx_last_fall : u32`, the latest falling timestamp (R36). -/
  lastFall : Timestamp
  deriving DecidableEq, Repr

/-- The TX unit's registers (R37 to R40). -/
structure TxContext where
  /-- `tx_frame : u64`, the frame being sent (R37). -/
  frame : Frame
  /-- `tx_bit_index`, a signed number of `BI_W` bits (`s8` at the default): the position counter (R38). -/
  bitIndex : Int
  /-- `tx_state : u2` (R39, R45). -/
  state : BitVec 2
  /-- `tx_invert : u1`, the polarity-invert flag (R40). -/
  invert : Bool
  deriving DecidableEq, Repr

/-- The PWM timer channel's registers (R41 to R44). -/
structure Channel where
  /-- `tmr_en : u1`: the channel runs (R41). -/
  tmrEn : Bool
  /-- `tmr_cmp_en : u1`: the compare event is delivered (R41). -/
  cmpEn : Bool
  /-- `tmr_cmp_done : u1`: this period's compare event has been delivered (R41). -/
  cmpDone : Bool
  /-- `PER : u16`, the active period, µs (R42). -/
  per : Micros
  /-- `CC : u16`, the active compare point, µs (R42). -/
  cc : Micros
  /-- `INV : u1`, the active inversion (R42). -/
  inv : Bool
  /-- `PER_B : u16`, the buffered period (R43). -/
  perB : Micros
  /-- `CC_B : u16`, the buffered compare point (R43). -/
  ccB : Micros
  /-- `INV_B : u1`, the buffered inversion (R43). -/
  invB : Bool
  /-- `tmr_out : u1`, the output line (R44). -/
  tmrOut : Bool
  deriving DecidableEq, Repr

/-- The result an operation returns with outcome `OK` (R111). -/
inductive Value where
  /-- No value. -/
  | nothing
  /-- RX.STATUS: the status word of R46. -/
  | status (word : BitVec 16)
  /-- RX.FRAME. -/
  | frame (f : Frame)
  /-- LY.BIT. -/
  | bit (b : BitVec 1)
  /-- LY.BYTE. -/
  | byte (b : Byte)
  /-- LY.DECODE. -/
  | record (r : FrameRecord)
  /-- LY.CSUM: 1 where the checksum is good. -/
  | verdict (b : BitVec 1)
  /-- LY.CURRENT: Q.15 milliamps. -/
  | milliamps (q : BitVec 64)
  /-- LY.POWER: Q.15 watts. -/
  | watts (q : BitVec 64)
  deriving DecidableEq, Repr

/-- The two kinds of `RANGE_ERROR` (R301). -/
inductive RangeKind where
  /-- An exponent field out of range. -/
  | exponent
  /-- An accessor index out of range. -/
  | index
  deriving DecidableEq, Repr

/-- How the latest operation ended (R301). -/
inductive Response where
  /-- No operation has ended since reset: the model's own value. -/
  | noneYet
  /-- `OK`, with the operation's result. -/
  | ok (v : Value)
  /-- `RANGE_ERROR`, with its kind and the value out of range. -/
  | rangeError (kind : RangeKind) (value : Byte)
  /-- `ILLEGAL_OP`, with the opcode byte. -/
  | illegalOp (op : Byte)
  deriving DecidableEq, Repr

/-- The direction of a transition of the input line (R140, R319). -/
inductive EdgeDir where
  /-- Low to high. -/
  | rising
  /-- High to low. -/
  | falling
  deriving DecidableEq, Repr

/-- A transition of `tmr_out` on its way to the input line through the loopback (R320). -/
structure LineEdge where
  /-- The transition's direction. -/
  dir : EdgeDir
  /-- The transition's time, µs. -/
  time : Nat
  deriving DecidableEq, Repr

/-- One step an agent asks for (R89, R308, R321). -/
inductive Turn where
  /-- An agent issues bytes of command words (R105). -/
  | command (agent : Agent) (bytes : List Byte)
  /-- EDGE: the input line changes at time `time` µs, which the platform turns into RX.RISE or RX.FALL with that time
  modulo `2^32` (R319, R320). -/
  | transition (dir : EdgeDir) (time : Nat)
  /-- EDGE: the oldest looped-back transition not yet delivered reaches the input line (R308 (d), R320). -/
  | lineEdge
  /-- TIMER: the channel takes its next step (R318). -/
  | timer
  /-- `us` µs go by, the channel taking the steps that fall due before their end (R363). -/
  | elapse (us : Nat)
  /-- RESET: the block is reset (R350). -/
  | reset
  deriving DecidableEq, Repr

/-- Why a step ends in a fault. -/
inductive Fault where
  /-- `rx_state` holds the reserved value 3: raised by every step, and by RX.STATUS and the classifier, which read the
  register (R45, K8). Safe: the spec has a model fault here. -/
  | reservedRxState
  /-- `tx_state` holds the reserved value 3: raised by every step (R45, K8). Safe: the spec has a model fault here. -/
  | reservedTxState
  deriving DecidableEq, Repr

/-- Why a step is refused. -/
inductive Refusal where
  /-- An instruction without a meaning, by its mnemonic: raised by no arm of this model. Safe. -/
  | notModelled (mnemonic : String)
  /-- A command issued by an agent that has no such step (R312): raised by the step, never by a meaning. Safe: no run
  of the block holds this turn. -/
  | notIssued (agent : Agent)
  /-- A command word that ends before its last operand byte, with its opcode: raised by the step, never by a meaning.
  Safe: the spec gives such a string of bytes no meaning. -/
  | truncatedCommand (op : Byte)
  deriving DecidableEq, Repr

/-- The machine's state. The block's registers are `rx`, `tx` and `ch`; the other fields are the model's own. -/
structure State where
  /-- The parameters of R8: configuration that exists before reset and that no step writes (R52, R352). -/
  cfg : Config
  /-- The RX context (R30). -/
  rx : RxContext
  /-- The TX context (R37 to R40). -/
  tx : TxContext
  /-- The PWM timer channel (R313). -/
  ch : Channel
  /-- The µs time base of the channel and the loopback (R320, R363). -/
  now : Nat
  /-- The time at which the channel's current period began (R314). -/
  periodStart : Nat
  /-- Whether `tmr_out` drives the input line (R320). -/
  loopback : Bool
  /-- The looped-back transitions not yet delivered, oldest first (R308, R320). -/
  edges : List LineEdge
  /-- The turns the agents ask for, next one first. -/
  pending : List Turn
  /-- How the latest operation ended (R301). -/
  response : Response
  deriving DecidableEq, Repr

/-- The RX context after reset (R56, decision D18). -/
def RxContext.reset : RxContext where
  frame := 0
  bitIndex := 0
  state := UnitState.idle.code
  done := false
  lastRise := 0
  riseValid := false
  lastFall := 0

/-- The TX context after reset (R56, decision D16). -/
def TxContext.reset : TxContext where
  frame := 0
  bitIndex := 0
  state := UnitState.idle.code
  invert := false

/-- The channel after reset (R56, decision D16). -/
def Channel.reset (c : Config) : Channel where
  tmrEn := false
  cmpEn := false
  cmpDone := false
  per := timerWord c c.markerPer
  cc := timerWord c c.markerOn
  inv := false
  perB := timerWord c c.markerPer
  ccB := timerWord c c.markerOn
  invB := false
  tmrOut := false

/-- The machine right after reset, in a configuration: every register at R56's value, nothing pending. -/
def State.resetIn (c : Config) : State where
  cfg := c
  rx := RxContext.reset
  tx := TxContext.reset
  ch := Channel.reset c
  now := 0
  periodStart := 0
  loopback := false
  edges := []
  pending := []
  response := .noneYet

/-- The machine right after reset, at the parameters' default values (R8, R56, R350). -/
def State.reset : State :=
  State.resetIn Config.nominal

end Sys2Proof.Machine
end

