-- ==== Sys2Proof/Machine/Ops.lean ====
section
/-! DEFINITION. The named operations over the state: how an operation answers its issuer (`60_exceptions.md` R301),
the RX sub-operations (`40_rx.md` R142, R143), the timer driver and the channel (R313 to R318), the output line with
its loopback (R320), and reset (`70_reset_and_hazards.md` R350).

The block has no trap (R300, R310): its one error shape is `raiseRangeError`. -/

namespace Sys2Proof.Machine

open Sys2Proof

/-! ### Outcomes -/

/-- Ends an operation: its issuer is given `r` (R301). -/
def State.answer (r : Response) (s : State) : State :=
  { s with response := r }

/-- Ends an operation with `OK` and a result (R111). -/
def returnValue (v : Value) (s : State) : Host.Outcome State Fault Refusal :=
  .next (s.answer (.ok v))

/-- `raise RangeError(code)`: the operation ends with `RANGE_ERROR`, writes no register and returns no value
(R13, R301). The block goes on. -/
def raiseRangeError (kind : RangeKind) (value : Byte) (s : State) : Host.Outcome State Fault Refusal :=
  .next (s.answer (.rangeError kind value))

/-- The outcome code of R301; none where no operation has ended. -/
def outcomeCode : Response → Option Nat
  | .noneYet => none
  | .ok _ => some 0
  | .rangeError _ _ => some 1
  | .illegalOp _ => some 2

/-- The code of a range error's kind (R301). -/
def rangeKindCode : RangeKind → Nat
  | .exponent => 1
  | .index => 2

/-! ### The RX unit -/

/-- Writes the RX context. -/
def State.setRx (rx : RxContext) (s : State) : State :=
  { s with rx := rx }

/-- `Classify(w)`, the PulseClassifier step with its RUN gating (R143, R147), on a width of `PW_W` bits. A marker reads no
state; every other pulse reads `rx_state`, which faults on the reserved value 3 (R45). -/
def classify (c : Config) (w : PulseWidth) (rx : RxContext) : Except Fault RxContext :=
  if isMarker c w then
    .ok { rx with bitIndex := 0, state := UnitState.run.code, frame := 0 }
  else
    match UnitState.ofCode rx.state with
    | none => .error .reservedRxState
    | some .run =>
      if isTail c w rx.bitIndex then
        .ok { rx with done := true, state := UnitState.idle.code }
      else
        .ok { rx with frame := shiftIn rx.frame (isOne c w), bitIndex := satInc c rx.bitIndex }
    | some .idle => .ok rx
    | some .stop => .ok rx

/-- A pulse width given to the classifier: it takes `PW_W` bits of it (R8, R143). -/
def classifyWidth (c : Config) (w : PulseWidth) (rx : RxContext) : Except Fault RxContext :=
  classify c (lowBits c.pwW w) rx

/-- The EdgeTimer at a rising edge (R141). -/
def recordRise (c : Config) (t : Timestamp) (rx : RxContext) : RxContext :=
  { rx with lastRise := lowBits c.tsW t, riseValid := true }

/-- The EdgeTimer at a falling edge: records it, and forwards the width where the fall exceeds a valid rise; otherwise
discards it silently (R142). -/
def recordFall (c : Config) (t : Timestamp) (rx : RxContext) : Except Fault RxContext :=
  if rx.riseValid && fallExceedsRise c (timestampDiff c t rx.lastRise) then
    classifyWidth c (timestampDiff c t rx.lastRise) { rx with lastFall := lowBits c.tsW t }
  else
    .ok { rx with lastFall := lowBits c.tsW t }

/-- Ends an RX operation that wrote the RX context and returns no value. -/
def finishRx (s : State) : Except Fault RxContext → Host.Outcome State Fault Refusal
  | .ok rx => returnValue .nothing (s.setRx rx)
  | .error e => .fault e

/-! ### The channel -/

/-- `TimerDisable()`: the channel stops, and its output is driven low at once (R317). -/
def timerDisable (ch : Channel) : Channel :=
  { ch with tmrEn := false, cmpDone := false, tmrOut := false }

/-- `TimerStart()`: a period begins with the active registers as they stand (R316). -/
def timerStart (ch : Channel) : Channel :=
  { ch with tmrEn := true, cmpDone := false, tmrOut := waveLevel ch.per ch.cc ch.inv 0 }

/-- The latch at a period boundary: the buffered registers become active and the next period begins (R315). -/
def latch (ch : Channel) : Channel :=
  { ch with per := ch.perB, cc := ch.ccB, inv := ch.invB, cmpDone := false,
            tmrOut := waveLevel ch.perB ch.ccB ch.invB 0 }

/-- Whether the channel's next event is the compare event: enabled, not past the period, not yet delivered
(R306, R318). -/
def compareDue (ch : Channel) : Bool :=
  ch.tmrEn && ch.cmpEn && decide (ch.cc.toNat < ch.per.toNat) && !ch.cmpDone

/-- The operation the channel issues next; none while it is disabled (R313, R318). -/
def channelNext (ch : Channel) : Option Instr :=
  if ch.tmrEn then (if compareDue ch then some .txCmp else some .txOvf) else none

/-- The instant of the channel's next event: `CC` or `PER` after the period's start (R315, R318). -/
def nextEventTime (s : State) : Nat :=
  s.periodStart + (if compareDue s.ch then s.ch.cc.toNat else s.ch.per.toNat)

/-! ### The output line, its loopback and the clock -/

/-- The transition a change of the line's level at time `time` is; none where the level stays (R319). -/
def levelChange (before after : Bool) (time : Nat) : List LineEdge :=
  if before = after then [] else [⟨if after then .rising else .falling, time⟩]

/-- Writes the channel at time `time`. With the loopback wired, a change of `tmr_out` is a transition of the input line
at that time, behind those not yet delivered: "Edges of the one input line are delivered in the order they occur"
(R308 (d), R320). -/
def State.driveChannel (time : Nat) (ch : Channel) (s : State) : State :=
  { s with
    ch := ch
    edges := s.edges ++ (if s.loopback then levelChange s.ch.tmrOut ch.tmrOut time else []) }

/-- Writes the TX context. -/
def State.setTx (tx : TxContext) (s : State) : State :=
  { s with tx := tx }

/-- Marks the current time as the start of a period (R315, R316). -/
def State.beginPeriod (s : State) : State :=
  { s with periodStart := s.now }

/-- Records the delivery of this period's compare event (R318). -/
def State.markCompared (s : State) : State :=
  { s with ch := { s.ch with cmpDone := true } }

/-- Lets the clock run to `time`, which lies in the current period where the channel runs; the output follows the
waveform, whose one change within a period is at `CC` (R314). Time never runs backwards. -/
def State.advanceTo (time : Nat) (s : State) : State :=
  let s' := { s with now := max s.now time }
  if s.ch.tmrEn then
    s'.driveChannel (s.periodStart + s.ch.cc.toNat)
      { s.ch with tmrOut := waveLevel s.ch.per s.ch.cc s.ch.inv (s'.now - s.periodStart) }
  else s'

/-! ### Reset -/

/-- The RESET agent's step: every register of the block takes R56's value in one atomic step (R350). The configuration,
the clock, the wiring, the turns and the latest response are no registers of the block and stay, and so do the looped-back
transitions on their way, behind which the line's fall goes (log entry 16). -/
def resetBlock (s : State) : State :=
  ({ s with rx := RxContext.reset, tx := TxContext.reset }).driveChannel s.now (Channel.reset s.cfg)

end Sys2Proof.Machine
end

