-- ==== Sys2Proof/Machine/Ly.lean ====
section
/-! DEFINITION. The LY unit's operations (`41_layout.md`): pure functions of their operands, which write no register
(R200). -/

namespace Sys2Proof.Machine

open Sys2Proof

/-- LY.BIT (R201). -/
def execLyBit (f : Frame) (i : Byte) (s : State) : Host.Outcome State Fault Refusal :=
  if 63 < i.toNat then raiseRangeError .index i s
  else returnValue (.bit (frameBit f i.toNat)) s

/-- LY.BYTE (R202). -/
def execLyByte (f : Frame) (j : Byte) (s : State) : Host.Outcome State Fault Refusal :=
  if 7 < j.toNat then raiseRangeError .index j s
  else returnValue (.byte (frameByte f j.toNat)) s

/-- LY.DECODE (R203). -/
def execLyDecode (f : Frame) (s : State) : Host.Outcome State Fault Refusal :=
  returnValue (.record (frameFields f)) s

/-- LY.CSUM (R204). -/
def execLyCsum (f : Frame) (s : State) : Host.Outcome State Fault Refusal :=
  returnValue (.verdict (BitVec.ofBool (payloadSum f == frameByte f 7))) s

/-- LY.CURRENT (R205, R207). -/
def execLyCurrent (f : Frame) (s : State) : Host.Outcome State Fault Refusal :=
  match converterExponent s.cfg (frameFields f).exponent with
  | none => raiseRangeError .exponent (frameFields f).exponent s
  | some e => returnValue (.milliamps (milliamps s.cfg (frameFields f).currentRaw e)) s

/-- LY.POWER (R206, R207). -/
def execLyPower (f : Frame) (v : Volts) (s : State) : Host.Outcome State Fault Refusal :=
  match converterExponent s.cfg (frameFields f).exponent with
  | none => raiseRangeError .exponent (frameFields f).exponent s
  | some e => returnValue (.watts (watts s.cfg (frameFields f).currentRaw v e)) s

end Sys2Proof.Machine
end

