-- ==== Sys2Proof/Machine/Rx.lean ====
section
/-! DEFINITION. The RX unit's operations (`40_rx.md`). -/

namespace Sys2Proof.Machine

open Sys2Proof

/-- RX.RISE (R141). -/
def execRxRise (t : Timestamp) (s : State) : Host.Outcome State Fault Refusal :=
  finishRx s (.ok (recordRise s.cfg t s.rx))

/-- RX.FALL (R142). -/
def execRxFall (t : Timestamp) (s : State) : Host.Outcome State Fault Refusal :=
  finishRx s (recordFall s.cfg t s.rx)

/-- RX.PULSE (R149). -/
def execRxPulse (w : PulseWidth) (s : State) : Host.Outcome State Fault Refusal :=
  finishRx s (classifyWidth s.cfg w s.rx)

/-- RX.STATUS (R151): one atomic snapshot (R87). -/
def execRxStatus (s : State) : Host.Outcome State Fault Refusal :=
  match UnitState.ofCode s.rx.state with
  | none => .fault .reservedRxState
  | some _ => returnValue (.status (rxStatusWord s.rx.bitIndex s.rx.state s.rx.done)) s

/-- RX.FRAME (R152): one atomic read of the live register (R87). -/
def execRxFrame (s : State) : Host.Outcome State Fault Refusal :=
  returnValue (.frame s.rx.frame) s

/-- RX.ACK (R153). -/
def execRxAck (s : State) : Host.Outcome State Fault Refusal :=
  finishRx s (.ok { s.rx with done := false })

end Sys2Proof.Machine
end

