-- ==== Sys2Proof/Machine/Tx.lean ====
section
/-! DEFINITION. The TX unit's operations (`42_tx.md`), with what the channel does as it issues its two events
(`60_exceptions.md` R315, R318). -/

namespace Sys2Proof.Machine

open Sys2Proof

/-- TX.INIT (R251): the channel is disabled and every TX and channel register takes its initial value. -/
def execTxInit (s : State) : Host.Outcome State Fault Refusal :=
  returnValue .nothing <|
    (s.setTx { s.tx with state := UnitState.idle.code, bitIndex := 0, invert := false, frame := 0 }).driveChannel s.now
      { timerDisable s.ch with
        cmpEn := false
        per := timerWord s.cfg s.cfg.markerPer, perB := timerWord s.cfg s.cfg.markerPer
        cc := timerWord s.cfg s.cfg.markerOn, ccB := timerWord s.cfg s.cfg.markerOn
        inv := false, invB := false }

/-- TX.SEND's loads of the buffered registers: the marker, not inverted, with its compare event enabled (R252). -/
def sendLoads (c : Config) (ch : Channel) : Channel :=
  { ch with invB := false, ccB := timerWord c c.markerOn, perB := timerWord c c.markerPer, cmpEn := true }

/-- TX.SEND (R252): abort what runs, store the frame, and start the channel at the propagation period. TimerDisable and
TimerStart each write the line (R316, R317), so a high line falls before it may rise again at the same instant. -/
def execTxSend (f : Frame) (s : State) : Host.Outcome State Fault Refusal :=
  let s₁ := (s.setTx { s.tx with
      frame := f, bitIndex := signedBits s.cfg.biW s.cfg.txStartIndex, invert := false
      state := UnitState.run.code }).driveChannel s.now (timerDisable s.ch)
  returnValue .nothing (s₁.driveChannel s₁.now (timerStart (sendLoads s.cfg s₁.ch))).beginPeriod

/-- TX.STOP (R253). -/
def execTxStop (s : State) : Host.Outcome State Fault Refusal :=
  returnValue .nothing <|
    (s.setTx { s.tx with state := UnitState.stop.code }).driveChannel s.now (timerDisable s.ch)

/-- The overflow event's effect on the TX registers and the channel's loads (R254). -/
def overflow (c : Config) (tx : TxContext) (ch : Channel) : TxContext × Channel :=
  let n := satInc c tx.bitIndex
  let tx' := { tx with bitIndex := n }
  if n = 0 then
    ({ tx' with invert := !tx.invert }, { ch with invB := !tx.invert, perB := timerWord c c.dataPer })
  else if n = -1 then
    (tx', { ch with invB := tx.invert })
  else if n = c.dataBits then
    (tx', { ch with perB := timerWord c c.tailPer })
  else if n = c.dataBits + c.tailBits then
    ({ tx' with state := UnitState.stop.code }, timerDisable ch)
  else
    (tx', ch)

/-- TX.OVF (R254). Where the channel's next event is the overflow, it is that event: the clock stands at `τ = PER`
(R315, R318). Anywhere else it is an injected event, which moves no time (K18). In both, "when TX.OVF returns with
`tmr_en = 1`, the channel latches the buffered registers and begins the next period" in the same step (R254, R315). -/
def execTxOvf (s : State) : Host.Outcome State Fault Refusal :=
  let s₁ := if s.ch.tmrEn && !compareDue s.ch then s.advanceTo (s.periodStart + s.ch.per.toNat) else s
  let p := overflow s.cfg s₁.tx s₁.ch
  returnValue .nothing <|
    if p.2.tmrEn then ((s₁.setTx p.1).driveChannel s₁.now (latch p.2)).beginPeriod
    else (s₁.setTx p.1).driveChannel s₁.now p.2

/-- The compare event's load of the next period's ON-duration (R255). With `DATA_BITS` above 64, which no well-formed
configuration has, `n` may exceed 63, where R12 defines no frame bit: DESIGN CHOICE (log entry 20), see `frameBit`. -/
def compareLoad (c : Config) (tx : TxContext) (ch : Channel) : Channel :=
  let n := tx.bitIndex + 1
  if n = c.dataBits then { ch with ccB := timerWord c c.tailOn }
  else if 0 ≤ n ∧ n < c.dataBits then
    { ch with ccB := timerWord c (if frameBit tx.frame n.toNat = 1 then c.data1On else c.data0On) }
  else ch

/-- TX.CMP (R255). Where the channel's next event is the compare event, it is that event: the clock stands at
`τ = CC`, and the channel records the delivery (R318). Anywhere else it is an injected event: only R255's own load
(K18). -/
def execTxCmp (s : State) : Host.Outcome State Fault Refusal :=
  let s₁ := if compareDue s.ch then (s.advanceTo (s.periodStart + s.ch.cc.toNat)).markCompared else s
  returnValue .nothing (s₁.driveChannel s₁.now (compareLoad s.cfg s₁.tx s₁.ch))

end Sys2Proof.Machine
end

