-- ==== Sys2Proof/Machine/Dispatch.lean ====
section
/-! DEFINITION. Each operation's meaning, one arm per constructor of `Instr`. -/

namespace Sys2Proof.Machine

open Sys2Proof

/-- What an operation does (`30_encoding.md` R107). -/
def exec (i : Instr) (s : State) : Host.Outcome State Fault Refusal :=
  match i with
  | .rxRise t => Sys2Proof.Machine.execRxRise t s
  | .rxFall t => Sys2Proof.Machine.execRxFall t s
  | .rxPulse w => Sys2Proof.Machine.execRxPulse w s
  | .rxStatus => Sys2Proof.Machine.execRxStatus s
  | .rxFrame => Sys2Proof.Machine.execRxFrame s
  | .rxAck => Sys2Proof.Machine.execRxAck s
  | .lyBit f j => Sys2Proof.Machine.execLyBit f j s
  | .lyByte f j => Sys2Proof.Machine.execLyByte f j s
  | .lyDecode f => Sys2Proof.Machine.execLyDecode f s
  | .lyCsum f => Sys2Proof.Machine.execLyCsum f s
  | .lyCurrent f => Sys2Proof.Machine.execLyCurrent f s
  | .lyPower f v => Sys2Proof.Machine.execLyPower f v s
  | .txInit => Sys2Proof.Machine.execTxInit s
  | .txSend f => Sys2Proof.Machine.execTxSend f s
  | .txStop => Sys2Proof.Machine.execTxStop s
  | .txOvf => Sys2Proof.Machine.execTxOvf s
  | .txCmp => Sys2Proof.Machine.execTxCmp s

end Sys2Proof.Machine
end

