-- ==== Sys2Proof/Machine/Schedule.lean ====
section
/-! DEFINITION. One step of the machine: which agent moves and what its turn does (`60_exceptions.md` R306, R312, R318,
R321; `20_memory.md` R89).

The block fetches no instruction (`10_state.md` R48). The turn at the head of `pending` is taken; with none there, the
environment is silent, and what moves is the loopback, then the channel. A turn may be taken before a looped-back
transition is delivered (R308 (b)), unless it is a later edge of the line (R308 (d)) or lets time go by: the loopback has
no delay (R320). -/

namespace Sys2Proof.Machine

open Sys2Proof

/-- The agents' step relation: which agent has a step for an operation (R107, R312, R321). The channel issues only the
event its registers determine (R318); a test harness may inject any operation (K18). -/
def mayIssue (a : Agent) (i : Instr) (s : State) : Bool :=
  match a with
  | .edge => match i with
    | .rxRise _ => true
    | .rxFall _ => true
    | .rxPulse _ => true
    | _ => false
  | .timer => channelNext s.ch == some i
  | .consumer => match i with
    | .rxStatus => true
    | .rxFrame => true
    | .rxAck => true
    | .lyBit _ _ => true
    | .lyByte _ _ => true
    | .lyDecode _ => true
    | .lyCsum _ => true
    | .lyCurrent _ => true
    | .lyPower _ _ => true
    | .txInit => true
    | .txSend _ => true
    | .txStop => true
    | _ => false
  | .reset => false
  | .harness => true

/-- An agent issues a decoded operation (R312). -/
def issue (a : Agent) (i : Instr) (s : State) : Host.Outcome State Fault Refusal :=
  if mayIssue a i s then exec i s else .refused (.notIssued a)

/-- Puts the bytes after a decoded command back: the same agent's next command words (R110). -/
def State.pushBytes (a : Agent) (bytes : List Byte) (s : State) : State :=
  if bytes.isEmpty then s else { s with pending := .command a bytes :: s.pending }

/-- An agent's command turn: the first command of its bytes is decoded and issued. An illegal opcode is answered
`ILLEGAL_OP` with the opcode byte and changes nothing else; the decoder stops there, so the bytes after it are lost
(R108, R301). A turn with no bytes at all asks for no operation and is used up with no outcome: DESIGN CHOICE, the spec is
silent (log entry 5). -/
def runCommand (a : Agent) (bytes : List Byte) (s : State) : Host.Outcome State Fault Refusal :=
  match decode bytes with
  | .ok (i, more) => issue a i (s.pushBytes a more)
  | .error .empty => .next s
  | .error (.illegalOp op) => .next (s.answer (.illegalOp op))
  | .error (.truncated op) => .refused (.truncatedCommand op)

/-- The platform's transition: RX.RISE or RX.FALL with the time modulo `2^32` (R319, R320). -/
def edgeInstr (d : EdgeDir) (time : Nat) : Instr :=
  match d with
  | .rising => .rxRise (BitVec.ofNat 32 time)
  | .falling => .rxFall (BitVec.ofNat 32 time)

/-- The TIMER agent's step: the event its registers determine; "While `tmr_en = 0` it has no step" (R313, R318). -/
def channelStep (s : State) : Host.Outcome State Fault Refusal :=
  match channelNext s.ch with
  | some i => exec i s
  | none => .next s

/-- EDGE delivers the oldest looped-back transition, or has none to deliver (R308 (d), R320). -/
def deliverEdge (s : State) : Host.Outcome State Fault Refusal :=
  match s.edges with
  | [] => .next s
  | e :: rest => exec (edgeInstr e.dir e.time) { s with edges := rest }

/-- Asks for a turn again, as the next one. -/
def State.asksAgain (t : Turn) (s : State) : State :=
  { s with pending := t :: s.pending }

/-- Whether an operation of an agent is a later edge of the input line than those on their way to it: RX.RISE and RX.FALL
are, whoever issues them, and so is what EDGE itself issues after them, RX.PULSE (R308 (d), R319, R321). -/
def isLaterEdge (a : Agent) (i : Instr) : Bool :=
  match i with
  | .rxRise _ => true
  | .rxFall _ => true
  | .rxPulse _ => a == .edge
  | _ => false

/-- Whether an operation lets time go by: it is the channel's next event, and that is later than now (R315, R318). -/
def takesTime (i : Instr) (s : State) : Bool :=
  channelNext s.ch == some i && decide (s.now < nextEventTime s)

/-- Whether the first operation of an agent's bytes waits for the transitions on their way. -/
def commandWaits (a : Agent) (bytes : List Byte) (s : State) : Bool :=
  match decode bytes with
  | .ok (i, _) => mayIssue a i s && (isLaterEdge a i || takesTime i s)
  | .error _ => false

/-- Whether a turn waits for the looped-back transitions on their way: a later edge of the line does, since "Edges of the
one input line are delivered in the order they occur" (R308 (d)), and so does a turn that lets time go by (R320: "zero
delay"). At the current instant an event of the channel may come before them (R320: "in either order"). -/
def turnWaits (t : Turn) (s : State) : Bool :=
  !s.edges.isEmpty &&
    match t with
    | .command a bytes => commandWaits a bytes s
    | .transition _ _ => true
    | .lineEdge => false
    | .timer => s.ch.tmrEn && decide (s.now < nextEventTime s)
    | .elapse us => decide (0 < us)
    | .reset => false

/-- Time goes by for `us` µs. An event of the channel that falls due before the end comes first, and the rest of the
time is still to go by after it; an event due at the very end may come after the next turn (R308 (b), R363). -/
def elapse (us : Nat) (s : State) : Host.Outcome State Fault Refusal :=
  if s.ch.tmrEn && decide (nextEventTime s < s.now + us) then
    channelStep (s.asksAgain (.elapse (s.now + us - max s.now (nextEventTime s))))
  else
    .next (s.advanceTo (s.now + us))

/-- What a turn does that need not wait, to the state it has already left. -/
def takeTurn (t : Turn) (s : State) : Host.Outcome State Fault Refusal :=
  match t with
  | .command a bytes => runCommand a bytes s
  | .transition d time => exec (edgeInstr d time) s
  | .lineEdge => deliverEdge s
  | .timer => channelStep s
  | .elapse us => elapse us s
  | .reset => .next (resetBlock s)

/-- A turn, on the state it has already left: where it waits for the looped-back transitions on their way, the oldest of
them comes first and the turn is asked for again. -/
def runTurn (t : Turn) (s : State) : Host.Outcome State Fault Refusal :=
  if turnWaits t s then deliverEdge (s.asksAgain t) else takeTurn t s

/-- What moves with no turn pending: the loopback, and then the channel (R318, R320). -/
def idleStep (s : State) : Host.Outcome State Fault Refusal :=
  if s.edges.isEmpty then channelStep s else deliverEdge s

/-- The reserved value of a state register a step finds, if any: "A model that finds 3 in a state register has a broken
invariant and faults" (R45). -/
def reservedState (s : State) : Option Fault :=
  if (UnitState.ofCode s.rx.state).isNone then some .reservedRxState
  else if (UnitState.ofCode s.tx.state).isNone then some .reservedTxState
  else none

/-- One step: the pending turn, or with none pending a looped-back transition or else the channel's next event; a block
with none of them waits (R89, R318, R320, R351). -/
def takeStep (s : State) : Host.Outcome State Fault Refusal :=
  match reservedState s with
  | some e => .fault e
  | none =>
    match s.pending with
    | [] => idleStep s
    | t :: rest => runTurn t { s with pending := rest }

/-- Places a command word as the next turn, issued by the test harness. A word that would wait for transitions on their way
is placed with none on their way, so that the very next step runs it (log entry 1). -/
def placeCommand (bytes : List Byte) (s : State) : State :=
  { s with
    pending := .command .harness bytes :: s.pending
    edges := if commandWaits .harness bytes s then [] else s.edges }

end Sys2Proof.Machine
end

