-- ==== Sys2Proof/Machine/Step.lean ====
section
/-! DEFINITION. The step of the machine and the placing of a command word where the next step takes it. -/

namespace Sys2Proof.Machine

open Sys2Proof

/-- One step of the machine. -/
def step (s : State) : Host.Outcome State Fault Refusal :=
  takeStep s

/-- `s` with the command word whose bits are `w`, numbered as `spec/opcode_table.json` numbers them, as its next turn, which
the very next step takes (log entry 1). -/
def State.withFetchWord (s : State) (nbits w : Nat) : State :=
  placeCommand (tableWordBytes nbits w) s

end Sys2Proof.Machine
end

