-- ==== Sys2Proof/Machine/Pseudo.lean ====
section
/-! DEFINITION. The pseudo-instructions of `30_encoding.md` R113, as the operations they expand to, and runs of
operations one after another. -/

namespace Sys2Proof.Machine

open Sys2Proof

/-- `LY.POWER f` supplies `REF_VOLTAGE_DEFAULT` (R113). -/
def pseudoPower (c : Config) (f : Frame) : List Instr :=
  [.lyPower f c.refVoltageDefault]

/-- `RX.HIGH t, w`: one high pulse of width `w` that starts at `t` (R113). -/
def pseudoHigh (t w : Nat) : List Instr :=
  [.rxRise (BitVec.ofNat 32 t), .rxFall (BitVec.ofNat 32 (t + w))]

/-- The pulse `RX.RECV` uses for a data bit: 143 µs for a 1, 68 µs for a 0 (R113). -/
def recvPulse (f : Frame) (i : Nat) : Instr :=
  .rxPulse (if frameBit f i = 1 then 143 else 68)

/-- `RX.RECV f`: a marker, the 64 data pulses of `f`, frame index 0 first, and a tail (R113). -/
def pseudoRecv (f : Frame) : List Instr :=
  .rxPulse 512 :: (List.range 64).map (recvPulse f) ++ [.rxPulse 20]

/-- `TX.PERIOD`: the channel's events of one period (R113). -/
def pseudoPeriod : List Instr :=
  [.txCmp, .txOvf]

/-- Runs operations one after another, stopping at the first fault or refusal (R89). -/
def runInstrs : List Instr → State → Host.Outcome State Fault Refusal
  | [], s => .next s
  | i :: rest, s =>
    match exec i s with
    | .next s' => runInstrs rest s'
    | .fault e => .fault e
    | .refused r => .refused r

end Sys2Proof.Machine
end

