-- ==== Sys2Proof/Safety.lean ====
section
/-! DEFINITION. The terms claims are stated in: the invariants of the RX unit, the TX unit, the channel and the loopback, the
operations of each unit, and what the RX unit can see of an operation. -/

namespace Sys2Proof.Machine

open Sys2Proof

/-- The RX unit's invariant: "`0 <= rx_bit_index <= BI_MAX` and `rx_state ∈ {IDLE, RUN}`" (R54), and the timestamps
recorded have `TS_W` bits. -/
abbrev RxInvariant (s : State) : Prop :=
  s.rx.lastRise.toNat < 2 ^ s.cfg.tsW ∧ s.rx.lastFall.toNat < 2 ^ s.cfg.tsW ∧
  0 ≤ s.rx.bitIndex ∧ s.rx.bitIndex ≤ s.cfg.biMax ∧
  (s.rx.state = UnitState.idle.code ∨ s.rx.state = UnitState.run.code)

/-- The TX unit's invariant: the index stays within -2..64 while RUN, the channel runs exactly in RUN with its compare
event enabled, and the buffered polarity is the polarity-invert flag (R39, R40, R55, R254). -/
abbrev TxInvariant (s : State) : Prop :=
  (s.tx.state = UnitState.idle.code ∨ s.tx.state = UnitState.run.code ∨ s.tx.state = UnitState.stop.code) ∧
  (s.ch.tmrEn = true ↔ s.tx.state = UnitState.run.code) ∧
  -2 ≤ s.tx.bitIndex ∧ s.tx.bitIndex ≤ s.cfg.biMax ∧
  (s.tx.state = UnitState.run.code → s.tx.bitIndex ≤ 64) ∧
  (s.ch.tmrEn = true → s.ch.cmpEn = true) ∧
  s.ch.invB = s.tx.invert

/-- The period and compare registers hold `TMR_W` bits (R42, R43). -/
abbrev TimerRegistersFit (c : Config) (ch : Channel) : Prop :=
  ch.per.toNat < 2 ^ c.tmrW ∧ ch.cc.toNat < 2 ^ c.tmrW ∧ ch.perB.toNat < 2 ^ c.tmrW ∧ ch.ccB.toNat < 2 ^ c.tmrW

/-- A bit index is a signed number of `BI_W` bits (R32, R38). -/
abbrev IndexFits (c : Config) (b : Int) : Prop :=
  -2 ^ (c.biW - 1) ≤ b ∧ b < 2 ^ (c.biW - 1)

/-- The channel's invariant: its registers fit; a stopped channel drives the line low and holds no delivered compare
event (R317); a running one stands between its period's start and its next event, its line follows the waveform, and a
delivered compare event lies behind it (R314, R315, R318). The time is the model's clock (log entry 12), and the line's
level at `τ = PER`, before the boundary's step, is log entry 13's. -/
abbrev ChannelInvariant (s : State) : Prop :=
  TimerRegistersFit s.cfg s.ch ∧
  (s.ch.tmrEn = false → s.ch.tmrOut = false ∧ s.ch.cmpDone = false) ∧
  (s.ch.tmrEn = true →
    s.periodStart ≤ s.now ∧ s.now ≤ nextEventTime s ∧
    s.ch.tmrOut = waveLevel s.ch.per s.ch.cc s.ch.inv (s.now - s.periodStart) ∧
    (s.ch.cmpDone = true → s.ch.cc.toNat < s.ch.per.toNat ∧ s.periodStart + s.ch.cc.toNat ≤ s.now))

/-- The loopback's invariant, its "zero delay" (R320): every transition on its way to the input line is one of the current
instant. -/
abbrev LineInvariant (s : State) : Prop :=
  ∀ e ∈ s.edges, e.time = s.now

/-- What holds of the machine at reset and after every step. -/
abbrev Invariant (s : State) : Prop :=
  s.cfg.WellFormed ∧ RxInvariant s ∧ TxInvariant s ∧ ChannelInvariant s ∧ LineInvariant s

/-- The operations of the RX unit (R107). -/
def isRx : Instr → Bool
  | .rxRise _ => true
  | .rxFall _ => true
  | .rxPulse _ => true
  | .rxStatus => true
  | .rxFrame => true
  | .rxAck => true
  | .lyBit _ _ => false
  | .lyByte _ _ => false
  | .lyDecode _ => false
  | .lyCsum _ => false
  | .lyCurrent _ => false
  | .lyPower _ _ => false
  | .txInit => false
  | .txSend _ => false
  | .txStop => false
  | .txOvf => false
  | .txCmp => false

/-- The operations of the LY unit (R107). -/
def isLy : Instr → Bool
  | .rxRise _ => false
  | .rxFall _ => false
  | .rxPulse _ => false
  | .rxStatus => false
  | .rxFrame => false
  | .rxAck => false
  | .lyBit _ _ => true
  | .lyByte _ _ => true
  | .lyDecode _ => true
  | .lyCsum _ => true
  | .lyCurrent _ => true
  | .lyPower _ _ => true
  | .txInit => false
  | .txSend _ => false
  | .txStop => false
  | .txOvf => false
  | .txCmp => false

/-- The operations of the TX unit (R107). -/
def isTx (i : Instr) : Bool :=
  !isRx i && !isLy i

/-- The operations of the edge source (R107: RX.RISE, RX.FALL, RX.PULSE). -/
def isEdgeEvent : Instr → Bool
  | .rxRise _ => true
  | .rxFall _ => true
  | .rxPulse _ => true
  | _ => false

/-- The operations of the timer channel (R107: TX.OVF, TX.CMP). -/
def isTimerEvent : Instr → Bool
  | .txOvf => true
  | .txCmp => true
  | _ => false

/-- The state after a marker: index 0, RUN, an empty buffer, `rx_done` as it was (R144). -/
def afterMarker (s : State) : State :=
  { s with rx := { s.rx with bitIndex := 0, state := 1, frame := 0 }, response := .ok .nothing }

/-- The state after a tail: done, IDLE, the buffer and the index as they were (R145). -/
def afterTail (s : State) : State :=
  { s with rx := { s.rx with done := true, state := 0 }, response := .ok .nothing }

/-- The state after a data pulse: one bit shifted in, the index counted up (R146). -/
def afterData (b : Bool) (s : State) : State :=
  { s with rx := { s.rx with frame := shiftIn s.rx.frame b, bitIndex := satInc s.cfg s.rx.bitIndex }
           response := .ok .nothing }

/-- The pulse width an operation gives the classifier in a state, if any, in its `PW_W` bits (R142, R149). -/
def forwardedWidth (i : Instr) (s : State) : Option PulseWidth :=
  match i with
  | .rxPulse w => some (lowBits s.cfg.pwW w)
  | .rxFall t =>
    if s.rx.riseValid && fallExceedsRise s.cfg (timestampDiff s.cfg t s.rx.lastRise) then
      some (lowBits s.cfg.pwW (timestampDiff s.cfg t s.rx.lastRise))
    else none
  | _ => none

/-- Whether an operation gives the classifier a marker (R144). -/
def bringsMarker (i : Instr) (s : State) : Bool :=
  match forwardedWidth i s with
  | some w => isMarker s.cfg w
  | none => false

/-- The level of a period's last part, from `CC` on: `(1 if PER - 1 < CC else 0) XOR INV` (R314). -/
def lastLevel (ch : Channel) : Bool :=
  xor (decide (ch.per.toNat - 1 < ch.cc.toNat)) ch.inv

/-- The ON-duration of a data bit (R257: `ON(bit k)`). -/
def dataOn (c : Config) (f : Frame) (k : Nat) : Micros :=
  BitVec.ofNat 16 (if frameBit f k = 1 then c.data1On else c.data0On)

/-- The channel at the start of data period `k` of a transmission (R257's row P(2+k)): the period is shaped by bit `k`,
and `DATA_PER` is still the buffered period. -/
def AtDataPeriod (k : Nat) (s : State) : Prop :=
  s.tx.state = UnitState.run.code ∧ s.tx.bitIndex = k ∧ s.tx.invert = true ∧
  s.ch.tmrEn = true ∧ s.ch.cmpEn = true ∧ s.ch.cmpDone = false ∧
  s.ch.per = BitVec.ofNat 16 s.cfg.dataPer ∧ s.ch.cc = dataOn s.cfg s.tx.frame k ∧ s.ch.inv = true ∧
  s.ch.perB = BitVec.ofNat 16 s.cfg.dataPer ∧ s.ch.invB = true ∧ s.periodStart = s.now

/-- The channel at the start of the tail period (R257's row P66). -/
def AtTailPeriod (s : State) : Prop :=
  s.tx.state = UnitState.run.code ∧ s.tx.bitIndex = 64 ∧ s.tx.invert = true ∧
  s.ch.tmrEn = true ∧ s.ch.cmpEn = true ∧ s.ch.cmpDone = false ∧
  s.ch.per = BitVec.ofNat 16 s.cfg.tailPer ∧ s.ch.cc = BitVec.ofNat 16 s.cfg.tailOn ∧ s.ch.inv = true ∧ s.periodStart = s.now

end Sys2Proof.Machine
end

