-- ==== Sys2Proof/Certificates/Slice0/Obligations.lean ====
section
/-! DEFINITION. The statements for the provers, in the order of `OBLIGATIONS.json`. The block has no memory
(`20_memory.md` R80): a statement's frame speaks of every register, the clock, the turns and the response. -/

open Sys2Proof Sys2Proof.Machine

/-! ### Command words -/

/-- R105, R106, R107: the decoder reads back every operation the encoder writes, with every operand value, and leaves
the bytes after it. -/
def Obligations.DecodeReadsEveryEncodedOperation : Prop :=
  ∀ (i : Instr) (rest : List Byte), decode (encode i ++ rest) = .ok (i, rest)

/-- R105, R106, R107: no other string of bytes decodes to an operation than its command word. -/
def Obligations.OnlyTheEncodedWordDecodes : Prop :=
  ∀ (bytes rest : List Byte) (i : Instr), decode bytes = .ok (i, rest) → bytes = encode i ++ rest

/-- R108: every opcode outside R107 selects no operation; the decoder refuses it by name, and the block answers
`ILLEGAL_OP` (outcome code 2) with the opcode byte and changes nothing. The turn itself is used up. -/
def Obligations.IllegalOpcodeIsRefusedWithoutEffect : Prop :=
  ∀ (op : Byte) (more : List Byte),
    (op.toNat = 0x00 ∨ (0x07 ≤ op.toNat ∧ op.toNat ≤ 0x10) ∨ (0x17 ≤ op.toNat ∧ op.toNat ≤ 0x20) ∨
      (0x26 ≤ op.toNat ∧ op.toNat ≤ 0xFF)) →
    decode (op :: more) = .error (.illegalOp op) ∧ outcomeCode (.illegalOp op) = some 2 ∧
    ∀ (a : Agent) (s : State) (rest : List Turn),
      reservedState s = none → s.pending = .command a (op :: more) :: rest →
      ∃ t, step s = .next t ∧ t.response = .illegalOp op ∧ t = { s with pending := t.pending, response := t.response }

/-- R106, R109, R110: the length of a command follows from its opcode alone: with at least its format's operand bytes a
legal opcode is a command, whatever their values. That it is refused with fewer is the model's choice (log entry 5). -/
def Obligations.LengthFollowsFromTheOpcode : Prop :=
  ∀ (op : Byte) (k : Format) (rest : List Byte), formatOf op = some k →
    (rest.length < operandBytes k → decode (op :: rest) = .error (.truncated op)) ∧
    (operandBytes k ≤ rest.length → ∃ i, decode (op :: rest) = .ok (i, rest.drop (operandBytes k))) ∧
    (k = .n → operandBytes k + 1 = 1) ∧ (k = .t → operandBytes k + 1 = 5) ∧ (k = .f → operandBytes k + 1 = 9) ∧
    (k = .fi → operandBytes k + 1 = 10) ∧ (k = .fv → operandBytes k + 1 = 11)

/-- Words the spec writes out (R112's example, and programs P1 to P4 of `95_test_vectors.md`) decode to the operations
they stand for. -/
def Obligations.SpecWordsDecode : Prop :=
  decode [0x03, 0x00, 0x00, 0x01, 0xC2] = .ok (.rxPulse 450, []) ∧
  decode [0x01, 0xFF, 0xFF, 0xFE, 0xD8] = .ok (.rxRise 4294967000, []) ∧
  decode [0x11, 0x0F, 0x12, 0x34, 0xD0, 0x1A, 0x2B, 0x03, 0x6D, 0x40] = .ok (.lyBit 0x0F1234D01A2B036D 64, []) ∧
  decode [0x16, 0x0F, 0x12, 0x34, 0xD0, 0x1A, 0x2B, 0x03, 0x6D, 0x00, 0xF0] =
    .ok (.lyPower 0x0F1234D01A2B036D 240, []) ∧
  decode [0x22, 0x01, 0x23, 0x45, 0x67, 0x89, 0xAB, 0xCD, 0xEF] = .ok (.txSend 0x0123456789ABCDEF, []) ∧
  decode [0x25] = .ok (.txCmp, [])

/-! ### RX: edges and pulses -/

/-- R141: RX.RISE records its timestamp, a value of `TS_W` bits (at the default every 32-bit operand is one), makes it
valid, and does nothing else. -/
def Obligations.RiseIsRecorded : Prop :=
  ∀ (t : Timestamp) (s : State), t.toNat < 2 ^ s.cfg.tsW →
    encode (.rxRise t) = 0x01 :: beBytes 4 t.toNat ∧
    exec (.rxRise t) s =
      .next { s with rx := { s.rx with lastRise := t, riseValid := true }, response := .ok .nothing }

/-- R142, with D4's modulus `2^TS_W` (`2^32` at the default, where every 32-bit operand is a timestamp): RX.FALL records
its timestamp; where the rise is valid and the fall exceeds it in modular order by less than half the range, the
difference is classified; otherwise the edge is discarded silently. -/
def Obligations.FallIsMeasuredOrDiscarded : Prop :=
  ∀ (t : Timestamp) (s : State) (d : Nat), s.cfg.tsW ≤ 32 → t.toNat < 2 ^ s.cfg.tsW →
    d = (t.toNat + 2 ^ 32 - s.rx.lastRise.toNat) % 2 ^ s.cfg.tsW →
    encode (.rxFall t) = 0x02 :: beBytes 4 t.toNat ∧
    (s.rx.riseValid = true → 0 < d → d < 2 ^ (s.cfg.tsW - 1) →
      exec (.rxFall t) s = exec (.rxPulse (BitVec.ofNat 32 d)) { s with rx := { s.rx with lastFall := t } } ∧
      (s.rx.state ≠ 3 → ∃ v, exec (.rxFall t) s = .next v ∧ v.rx.lastFall = t ∧ v.rx.lastRise = s.rx.lastRise ∧
        v.rx.riseValid = true ∧ v.response = .ok .nothing)) ∧
    (s.rx.riseValid = false ∨ d = 0 ∨ 2 ^ (s.cfg.tsW - 1) ≤ d →
      exec (.rxFall t) s = .next { s with rx := { s.rx with lastFall := t }, response := .ok .nothing })

/-- R149, with R143's rules: RX.PULSE classifies its width, a value of `PW_W` bits (at the default every 32-bit operand is
one), in priority order and with the RUN gate, in every configuration; the defaults of the four thresholds are 400, 40,
100 and 63. The index counts up to `BI_MAX` from any value its register can hold. -/
def Obligations.PulseIsClassified : Prop :=
  (State.reset.cfg.markerMin = 400 ∧ State.reset.cfg.tailMax = 40 ∧ State.reset.cfg.oneMin = 100 ∧
    State.reset.cfg.lastIndex = 63 ∧ State.reset.cfg.pwW = 32) ∧
  ∀ (w : PulseWidth) (s : State) (v : Nat), v = w.toNat → v < 2 ^ s.cfg.pwW →
    encode (.rxPulse w) = 0x03 :: beBytes 4 w.toNat ∧
    (s.cfg.markerMin < v →
      exec (.rxPulse w) s =
        .next { s with rx := { s.rx with bitIndex := 0, state := 1, frame := 0 }, response := .ok .nothing }) ∧
    (v ≤ s.cfg.markerMin → s.rx.state = 1 → v < s.cfg.tailMax ∧ s.cfg.lastIndex < s.rx.bitIndex →
      exec (.rxPulse w) s =
        .next { s with rx := { s.rx with done := true, state := 0 }, response := .ok .nothing }) ∧
    (v ≤ s.cfg.markerMin → s.rx.state = 1 → ¬(v < s.cfg.tailMax ∧ s.cfg.lastIndex < s.rx.bitIndex) →
      ∃ f b, exec (.rxPulse w) s =
          .next { s with rx := { s.rx with frame := f, bitIndex := b }, response := .ok .nothing } ∧
        f.toNat = s.rx.frame.toNat * 2 % 2 ^ 64 + (if s.cfg.oneMin < v then 1 else 0) ∧
        (s.cfg.CounterRange → IndexFits s.cfg s.rx.bitIndex → b = min (s.rx.bitIndex + 1) s.cfg.biMax)) ∧
    (v ≤ s.cfg.markerMin → s.rx.state = 0 ∨ s.rx.state = 2 →
      exec (.rxPulse w) s = .next { s with response := .ok .nothing })

/-- R148: each comparison is strict, at the default thresholds. -/
def Obligations.ThresholdsAreStrict : Prop :=
  ∀ s : State, s.cfg = Config.nominal →
    exec (.rxPulse 401) s = .next (afterMarker s) ∧
    (s.rx.state = 0 ∨ s.rx.state = 2 → exec (.rxPulse 400) s = .next { s with response := .ok .nothing }) ∧
    (s.rx.state = 1 →
      exec (.rxPulse 400) s = .next (afterData true s) ∧
      exec (.rxPulse 40) s = .next (afterData false s) ∧
      exec (.rxPulse 100) s = .next (afterData false s) ∧
      exec (.rxPulse 101) s = .next (afterData true s) ∧
      (s.rx.bitIndex = 64 → exec (.rxPulse 39) s = .next (afterTail s)) ∧
      (s.rx.bitIndex = 63 → exec (.rxPulse 39) s = .next (afterData false s))) ∧
    (∀ w : PulseWidth, w.toNat < 40 → exec (.rxPulse w) s = exec (.rxPulse 0) s) ∧
    ∀ t : Timestamp, forwardedWidth (.rxFall t) s ≠ some 0

/-- R144: a marker wins in every state, empties the buffer and does not touch `rx_done`. -/
def Obligations.MarkerWinsInEveryState : Prop :=
  ∀ (w : PulseWidth) (s : State), w.toNat < 2 ^ s.cfg.pwW → s.cfg.markerMin < w.toNat →
    exec (.rxPulse w) s = .next (afterMarker s) ∧
    (afterMarker s).rx.done = s.rx.done ∧ (afterMarker s).rx.frame = 0 ∧ (afterMarker s).rx.bitIndex = 0

/-- R113, R142, D4: the pseudo-instruction RX.HIGH, a pulse of `w` µs that starts at any `t`, is classified as `w`,
wraparound or not, for every `w` below half the timer's range. With `TS_W` below 32 the operands `t` and `t + w` may be
wider than a timestamp: that they are recorded modulo `2^TS_W` is the model's choice (log entry 8); at the default it is
R113's `2^32`. -/
def Obligations.HighPulseIsMeasuredAcrossTheWrap : Prop :=
  ∀ (t w : Nat) (s : State), s.cfg.tsW ≤ 32 → 0 < w → w < 2 ^ (s.cfg.tsW - 1) →
    ∃ u v : Timestamp, u.toNat = t % 2 ^ s.cfg.tsW ∧ v.toNat = (t + w) % 2 ^ s.cfg.tsW ∧
    runInstrs (pseudoHigh t w) s =
      exec (.rxPulse (BitVec.ofNat 32 w))
        { s with rx := { s.rx with lastRise := u, riseValid := true, lastFall := v }, response := .ok .nothing }

/-- R45: the encodings; no operation and no step writes 3 into a state register; a model that finds 3 faults. Where it
finds it (every step, whatever its turn, and an operation that reads the register) is log entry 15. -/
def Obligations.ReservedStateValueFaults : Prop :=
  (UnitState.idle.code = 0 ∧ UnitState.run.code = 1 ∧ UnitState.stop.code = 2) ∧
  (∀ s : State, s.rx.state = 3 ∨ s.tx.state = 3 → ∃ e, step s = .fault e) ∧
  (∀ s : State, s.rx.state = 3 → exec .rxStatus s = .fault .reservedRxState ∧
    ∀ w : PulseWidth, w.toNat ≤ s.cfg.markerMin → exec (.rxPulse w) s = .fault .reservedRxState) ∧
  (∀ (i : Instr) (s t : State), exec i s = .next t →
    (t.rx.state = 3 → s.rx.state = 3) ∧ (t.tx.state = 3 → s.tx.state = 3)) ∧
  ∀ s t : State, step s = .next t → t.rx.state ≠ 3 ∧ t.tx.state ≠ 3

/-! ### RX: consumer access -/

/-- R46, R151: RX.STATUS returns the 16-bit status word, `256 * bit_index + 2 * state + done` with the index as its
8-bit pattern and bits [7:3] zero, and writes no register. The index is an `s8`. -/
def Obligations.StatusWordIsLaidOut : Prop :=
  ∀ s : State, s.rx.state ≠ 3 → -128 ≤ s.rx.bitIndex → s.rx.bitIndex < 128 →
    encode .rxStatus = [0x04] ∧
    ∃ word : BitVec 16,
      exec .rxStatus s = .next { s with response := .ok (.status word) } ∧
      word.toNat = 256 * (s.rx.bitIndex % 256).toNat + 2 * s.rx.state.toNat + s.rx.done.toNat

/-- R152: RX.FRAME returns the register as it stands, and writes nothing. -/
def Obligations.FrameReadHasNoEffect : Prop :=
  ∀ s : State, encode .rxFrame = [0x05] ∧
    exec .rxFrame s = .next { s with response := .ok (.frame s.rx.frame) }

/-- R153: RX.ACK clears `rx_done` and changes nothing else. -/
def Obligations.AckClearsDoneOnly : Prop :=
  ∀ s : State, encode .rxAck = [0x06] ∧
    exec .rxAck s = .next { s with rx := { s.rx with done := false }, response := .ok .nothing }

/-- R90, R147: outside RUN, any operation that brings no marker leaves the frame, the index and the state, and only
RX.ACK clears the flag. -/
def Obligations.CompletedFrameStandsUntilMarker : Prop :=
  ∀ (i : Instr) (s t : State), s.rx.state = 0 ∨ s.rx.state = 2 → bringsMarker i s = false → exec i s = .next t →
    t.rx.frame = s.rx.frame ∧ t.rx.bitIndex = s.rx.bitIndex ∧ t.rx.state = s.rx.state ∧
    (i ≠ .rxAck → t.rx.done = s.rx.done)

/-- R34, R145, R359: an operation that ends RUN is an edge event that gave the classifier a tail, a width below `TAIL_MAX`
with more than `LAST_INDEX` bits received; it sets the flag and leaves the frame; and only such a one sets the flag, only
RX.ACK clears it. -/
def Obligations.OnlyATailEndsReception : Prop :=
  ∀ (i : Instr) (s t : State), exec i s = .next t →
    (s.rx.state = 1 → t.rx.state ≠ 1 →
      isEdgeEvent i = true ∧ (∃ w, forwardedWidth i s = some w ∧ w.toNat < s.cfg.tailMax ∧ w.toNat ≤ s.cfg.markerMin) ∧
      s.cfg.lastIndex < s.rx.bitIndex ∧ t.rx.state = 0 ∧ t.rx.done = true ∧
      t.rx.frame = s.rx.frame ∧ t.rx.bitIndex = s.rx.bitIndex) ∧
    (s.rx.done = false → t.rx.done = true → s.rx.state = 1 ∧ t.rx.state = 0) ∧
    (s.rx.done = true → t.rx.done = false → i = .rxAck)

/-- R113, R143 to R146 (V3.19): from every state, the pseudo-instruction RX.RECV leaves exactly its frame, complete. -/
def Obligations.ReceptionReproducesTheFrame : Prop :=
  ∀ (f : Frame) (s : State), s.cfg = Config.nominal →
    ∃ t, runInstrs (pseudoRecv f) s = .next t ∧
      t.rx.frame = f ∧ t.rx.bitIndex = 64 ∧ t.rx.state = 0 ∧ t.rx.done = true ∧
      t.tx = s.tx ∧ t.ch = s.ch ∧
      t.rx.lastRise = s.rx.lastRise ∧ t.rx.riseValid = s.rx.riseValid ∧ t.rx.lastFall = s.rx.lastFall

/-! ### LY -/

/-- R51: an LY operation is a pure function of its operands: it writes no register, and in one configuration it answers
the same in every state. -/
def Obligations.LayoutOperationsArePure : Prop :=
  ∀ (i : Instr) (c : Config), isLy i = true →
    ∃ r : Response, ∀ s : State, s.cfg = c → exec i s = .next { s with response := r }

/-- R201: LY.BIT returns frame bit `i`, 0 the most significant, and raises `RANGE_ERROR(INDEX)` above 63. -/
def Obligations.LayoutBit : Prop :=
  ∀ (f : Frame) (i : Byte) (s : State),
    encode (.lyBit f i) = 0x11 :: (beBytes 8 f.toNat ++ beBytes 1 i.toNat) ∧
    (i.toNat ≤ 63 → ∃ b : BitVec 1, exec (.lyBit f i) s = .next { s with response := .ok (.bit b) } ∧
      b.toNat = f.toNat / 2 ^ (63 - i.toNat) % 2) ∧
    (63 < i.toNat → exec (.lyBit f i) s = .next { s with response := .rangeError .index i })

/-- R202: LY.BYTE returns frame byte `j`, 0 the most significant, and raises `RANGE_ERROR(INDEX)` above 7. -/
def Obligations.LayoutByte : Prop :=
  ∀ (f : Frame) (j : Byte) (s : State),
    encode (.lyByte f j) = 0x12 :: (beBytes 8 f.toNat ++ beBytes 1 j.toNat) ∧
    (j.toNat ≤ 7 → ∃ b : Byte, exec (.lyByte f j) s = .next { s with response := .ok (.byte b) } ∧
      b.toNat = f.toNat / 256 ^ (7 - j.toNat) % 256) ∧
    (7 < j.toNat → exec (.lyByte f j) s = .next { s with response := .rangeError .index j })

/-- R203 (with R100's layout): LY.DECODE returns the record whose fields, in wire order, make up the frame. -/
def Obligations.LayoutDecode : Prop :=
  ∀ (f : Frame) (s : State),
    encode (.lyDecode f) = 0x13 :: beBytes 8 f.toNat ∧
    ∃ r : FrameRecord, exec (.lyDecode f) s = .next { s with response := .ok (.record r) } ∧
      f = r.syncBits ++ r.id ++ r.pairing ++ r.interval ++ r.battery ++ r.unused ++ r.currentRaw ++ r.exponent ++
        r.checksum

/-- R204: LY.CSUM answers 1 exactly where the sum of the seven payload bytes, modulo 256, is the checksum byte. -/
def Obligations.LayoutChecksum : Prop :=
  ∀ (f : Frame) (s : State),
    encode (.lyCsum f) = 0x14 :: beBytes 8 f.toNat ∧
    ∃ v : BitVec 1, exec (.lyCsum f) s = .next { s with response := .ok (.verdict v) } ∧
      (v = 1 ↔ ((List.range 7).map fun j => f.toNat / 256 ^ (7 - j) % 256).sum % 256 = f.toNat % 256)

/-- R205: LY.CURRENT returns `current_raw * 1000 * 2^exponent` exactly, below `2^41`, and raises
`RANGE_ERROR(EXPONENT)` for an exponent above 15. -/
def Obligations.LayoutCurrent : Prop :=
  ∀ (f : Frame) (s : State), s.cfg.expMax = 15 → s.cfg.expPolicy = .reject → s.cfg.fracBits = 15 →
    encode (.lyCurrent f) = 0x15 :: beBytes 8 f.toNat ∧
    (f.toNat / 256 % 256 ≤ 15 →
      ∃ q : BitVec 64, exec (.lyCurrent f) s = .next { s with response := .ok (.milliamps q) } ∧
        q.toNat = f.toNat / 2 ^ 16 % 2 ^ 16 * 1000 * 2 ^ (f.toNat / 256 % 256) ∧ q.toNat < 2 ^ 41) ∧
    (15 < f.toNat / 256 % 256 →
      exec (.lyCurrent f) s =
        .next { s with response := .rangeError .exponent (BitVec.ofNat 8 (f.toNat / 256 % 256)) })

/-- R206: LY.POWER returns `current_raw * v * 2^exponent` exactly, below `2^47`, for a voltage of `V_W` bits (at the
default every 16-bit operand is one), and raises `RANGE_ERROR(EXPONENT)` for an exponent above 15. -/
def Obligations.LayoutPower : Prop :=
  ∀ (f : Frame) (v : Volts) (s : State),
    s.cfg.expMax = 15 → s.cfg.expPolicy = .reject → s.cfg.fracBits = 15 → v.toNat < 2 ^ s.cfg.vW →
    encode (.lyPower f v) = 0x16 :: (beBytes 8 f.toNat ++ beBytes 2 v.toNat) ∧
    (f.toNat / 256 % 256 ≤ 15 →
      ∃ q : BitVec 64, exec (.lyPower f v) s = .next { s with response := .ok (.watts q) } ∧
        q.toNat = f.toNat / 2 ^ 16 % 2 ^ 16 * v.toNat * 2 ^ (f.toNat / 256 % 256) ∧ q.toNat < 2 ^ 47) ∧
    (15 < f.toNat / 256 % 256 →
      exec (.lyPower f v) s =
        .next { s with response := .rangeError .exponent (BitVec.ofNat 8 (f.toNat / 256 % 256)) })

/-- R206 (V1.8), R113: the power at the default voltage, times 1000, is the current times 240, for every frame with an
exponent of at most 15. -/
def Obligations.PowerIsCurrentTimesVoltage : Prop :=
  ∀ (f : Frame) (s : State), s.cfg = Config.nominal → (frameFields f).exponent.toNat ≤ 15 →
    ∃ q p : BitVec 64, exec (.lyCurrent f) s = .next { s with response := .ok (.milliamps q) } ∧
      runInstrs (pseudoPower s.cfg f) s = .next { s with response := .ok (.watts p) } ∧
      p.toNat * 1000 = q.toNat * 240

/-- R207: the reject policy covers the two converters only: with an exponent field of 16 to 255 both raise, while
LY.DECODE still returns the raw field and LY.CSUM still answers. -/
def Obligations.ExponentPolicyRejects : Prop :=
  ∀ (f : Frame) (v : Volts) (s : State), s.cfg = Config.nominal →
    16 ≤ (frameFields f).exponent.toNat →
    exec (.lyCurrent f) s = .next { s with response := .rangeError .exponent (frameFields f).exponent } ∧
    exec (.lyPower f v) s = .next { s with response := .rangeError .exponent (frameFields f).exponent } ∧
    (∃ r : FrameRecord, exec (.lyDecode f) s = .next { s with response := .ok (.record r) } ∧
      r.exponent.toNat = f.toNat / 256 % 256) ∧
    ∃ b : BitVec 1, exec (.lyCsum f) s = .next { s with response := .ok (.verdict b) }

/-- D9: with the alternative policy CLAMP no converter raises: an exponent field of at most 15 converts as it stands (R205,
R206), as it does under either policy, and one above as 15. A result with `k` fractional bits more than the default 15 has
`k` zeros more, and a voltage is taken in its `V_W` bits: what these widths do away from their defaults is the model's
choice (log entry 8). -/
def Obligations.ClampPolicyConvertsAtTheMaximum : Prop :=
  ∀ (f : Frame) (v : Volts) (s : State) (e k : Nat),
    s.cfg.expMax = 15 → s.cfg.expPolicy = .clamp ∨ f.toNat / 256 % 256 ≤ 15 → s.cfg.fracBits = 15 + k → k ≤ 17 →
    e = (if f.toNat / 256 % 256 ≤ 15 then f.toNat / 256 % 256 else 15) →
    ∃ q p : BitVec 64, exec (.lyCurrent f) s = .next { s with response := .ok (.milliamps q) } ∧
      q.toNat = f.toNat / 2 ^ 16 % 2 ^ 16 * 1000 * 2 ^ e * 2 ^ k ∧
      exec (.lyPower f v) s = .next { s with response := .ok (.watts p) } ∧
      p.toNat = f.toNat / 2 ^ 16 % 2 ^ 16 * (v.toNat % 2 ^ s.cfg.vW) * 2 ^ e * 2 ^ k

/-! ### TX: commands -/

/-- R251: TX.INIT puts every TX and channel register at its initial value, in every configuration whose times fit
the channel's registers (R250 (a)). -/
def Obligations.InitSetsTheTransmitter : Prop :=
  ∀ s : State, s.cfg.TimesFit → encode .txInit = [0x21] ∧
    ∃ t, exec .txInit s = .next t ∧
      t.tx = { frame := 0, bitIndex := 0, state := 0, invert := false } ∧
      t.ch = { tmrEn := false, cmpEn := false, cmpDone := false
               per := BitVec.ofNat 16 s.cfg.markerPer, cc := BitVec.ofNat 16 s.cfg.markerOn, inv := false
               perB := BitVec.ofNat 16 s.cfg.markerPer, ccB := BitVec.ofNat 16 s.cfg.markerOn, invB := false
               tmrOut := false } ∧
      t = { s with tx := t.tx, ch := t.ch, edges := t.edges, response := .ok .nothing } ∧
      (s.loopback = false ∨ s.ch.tmrOut = false → t.edges = s.edges)

/-- R252: TX.SEND stores the frame, starts at index -2 in RUN, loads the marker into the buffered registers (whose
`TMR_W` bits its times fit, R250 (a)), and starts a period shaped by the active registers as they stand (R316), from any state. -/
def Obligations.SendStartsTheTransmission : Prop :=
  ∀ (f : Frame) (s : State), s.cfg.txStartIndex = -2 → 2 ≤ s.cfg.biW → s.cfg.TimesFit →
    encode (.txSend f) = 0x22 :: beBytes 8 f.toNat ∧
    ∃ t, exec (.txSend f) s = .next t ∧
      t.tx = { frame := f, bitIndex := -2, state := 1, invert := false } ∧
      t.ch = { tmrEn := true, cmpEn := true, cmpDone := false, per := s.ch.per, cc := s.ch.cc, inv := s.ch.inv
               perB := BitVec.ofNat 16 s.cfg.markerPer, ccB := BitVec.ofNat 16 s.cfg.markerOn, invB := false
               tmrOut := xor (decide (0 < s.ch.cc.toNat)) s.ch.inv } ∧
      t = { s with tx := t.tx, ch := t.ch, periodStart := s.now, edges := t.edges, response := .ok .nothing } ∧
      (s.loopback = false → t.edges = s.edges)

/-- R253: TX.STOP moves the unit to STOP, disables the channel and drives the line low at once (R317), and leaves every
other register. -/
def Obligations.StopDisablesTheChannel : Prop :=
  ∀ s : State, encode .txStop = [0x23] ∧
    ∃ t, exec .txStop s = .next t ∧
      t = { s with tx := { s.tx with state := 2 }
                   ch := { s.ch with tmrEn := false, cmpDone := false, tmrOut := false }
                   edges := t.edges, response := .ok .nothing } ∧
      (s.loopback = false ∨ s.ch.tmrOut = false → t.edges = s.edges)

/-- R256: of two sends in a row only the second is in flight: the first leaves nothing behind in the block. What it leaves
on a looped-back line is `LoopbackDeliversTheTransition`'s. -/
def Obligations.SecondSendReplacesTheFirst : Prop :=
  ∀ (f g : Frame) (s t₁ t₂ t : State), exec (.txSend f) s = .next t₁ → exec (.txSend g) t₁ = .next t₂ →
    exec (.txSend g) s = .next t →
    t₂ = { t with edges := t₂.edges } ∧ (s.loopback = false → t₂.edges = t.edges)

/-! ### TX: events and the channel -/

/-- R254: TX.OVF counts the index up and, at 0, -1, 64 and 65, has the one effect of that index; if the channel runs after it, the buffered registers are latched; it is gated by no state. -/
def Obligations.OverflowActsByIndex : Prop :=
  ∀ (s : State) (n : Int), s.cfg.WellFormed → IndexFits s.cfg s.tx.bitIndex → n = min (s.tx.bitIndex + 1) s.cfg.biMax →
    encode .txOvf = [0x24] ∧
    ∃ t, exec .txOvf s = .next t ∧
      t.tx.bitIndex = n ∧ t.tx.frame = s.tx.frame ∧
      t.tx.invert = (if n = 0 then !s.tx.invert else s.tx.invert) ∧
      t.tx.state = (if n = 65 then 2 else s.tx.state) ∧
      t.ch.perB = (if n = 0 then BitVec.ofNat 16 s.cfg.dataPer else if n = 64 then BitVec.ofNat 16 s.cfg.tailPer
        else s.ch.perB) ∧
      t.ch.invB = (if n = 0 then !s.tx.invert else if n = -1 then s.tx.invert else s.ch.invB) ∧
      t.ch.ccB = s.ch.ccB ∧ t.ch.cmpEn = s.ch.cmpEn ∧
      t.ch.tmrEn = (s.ch.tmrEn && decide (n ≠ 65)) ∧
      (t.ch.tmrEn = true → t.ch.per = t.ch.perB ∧ t.ch.cc = t.ch.ccB ∧ t.ch.inv = t.ch.invB) ∧
      (t.ch.tmrEn = false → t.ch.per = s.ch.per ∧ t.ch.cc = s.ch.cc ∧ t.ch.inv = s.ch.inv) ∧
      (n = 65 → t.ch.tmrOut = false ∧ t.ch.cmpDone = false) ∧
      (s.ch.tmrEn = false → n ≠ 65 → t.ch.tmrOut = s.ch.tmrOut ∧ t.ch.cmpDone = s.ch.cmpDone) ∧
      t.rx = s.rx ∧ t.cfg = s.cfg ∧ t.loopback = s.loopback ∧ t.response = .ok .nothing ∧
      t.pending = s.pending ∧ (s.loopback = false → t.edges = s.edges)

/-- R315: the boundary. With the channel running and still running after TX.OVF, the buffered registers become active,
no compare event of the new period is delivered yet, and the new period begins at once with its first level. That
TX.OVF where it is the channel's next event is the one at `PER`, at that instant, and elsewhere an injected one that moves
no time, is the model's choice (log entry 10). -/
def Obligations.BoundaryLatchesAfterOverflow : Prop :=
  ∀ s t : State, exec .txOvf s = .next t →
    (s.ch.tmrEn = true → compareDue s.ch = false → t.now = max s.now (s.periodStart + s.ch.per.toNat)) ∧
    (compareDue s.ch = true → t.now = s.now) ∧
    (t.ch.tmrEn = true →
      t.ch.per = t.ch.perB ∧ t.ch.cc = t.ch.ccB ∧ t.ch.inv = t.ch.invB ∧ t.ch.cmpDone = false ∧
      t.periodStart = t.now ∧ t.ch.tmrOut = xor (decide (0 < t.ch.cc.toNat)) t.ch.inv) ∧
    (s.ch.tmrEn = false → t.ch.tmrEn = false ∧ t.now = s.now ∧ t.periodStart = s.periodStart)

/-- R255: TX.CMP loads the next ON-duration by the index plus one: the tail's at 64, the data bit's at 0 to 63, nothing
elsewhere; it is gated by no state and changes no other load. -/
def Obligations.CompareLoadsTheNextWidth : Prop :=
  ∀ (s : State) (n : Int), s.cfg.dataBits = 64 → s.cfg.TimesFit → n = s.tx.bitIndex + 1 →
    encode .txCmp = [0x25] ∧
    ∃ t, exec .txCmp s = .next t ∧
      t.ch.ccB = (if n = 64 then BitVec.ofNat 16 s.cfg.tailOn
        else if 0 ≤ n ∧ n < 64 then
          BitVec.ofNat 16 (if s.tx.frame.toNat / 2 ^ (63 - n.toNat) % 2 = 1 then s.cfg.data1On else s.cfg.data0On)
        else s.ch.ccB) ∧
      t = { s with ch := { s.ch with ccB := t.ch.ccB, cmpDone := t.ch.cmpDone, tmrOut := t.ch.tmrOut }
                   now := t.now, edges := t.edges, response := .ok .nothing } ∧
      (s.loopback = false → t.edges = s.edges)

/-- R318: in a period with the compare event enabled and inside the period, the channel issues TX.CMP at `CC` once and
records it; its event after that is TX.OVF. That a TX.CMP which is not due is an injected one, and leaves the clock, the
line and the record, is the model's choice (log entry 11). -/
def Obligations.CompareIsDeliveredOnce : Prop :=
  ∀ s t : State, exec .txCmp s = .next t →
    (s.ch.tmrEn = true → s.ch.cmpEn = true → s.ch.cc.toNat < s.ch.per.toNat → s.ch.cmpDone = false →
      t.ch.cmpDone = true ∧ t.now = max s.now (s.periodStart + s.ch.cc.toNat) ∧ channelNext t.ch = some .txOvf) ∧
    (s.ch.tmrEn = false ∨ s.ch.cmpEn = false ∨ s.ch.per.toNat ≤ s.ch.cc.toNat ∨ s.ch.cmpDone = true →
      t.ch.cmpDone = s.ch.cmpDone ∧ t.now = s.now ∧ t.ch.tmrOut = s.ch.tmrOut ∧ t.edges = s.edges)

/-- R318, R313: a step of the TIMER agent runs the one event the channel's registers determine; a disabled channel has
none. With a looped-back transition undelivered, an event later than now waits for it (log entry 14). -/
def Obligations.ChannelEventIsDetermined : Prop :=
  ∀ (s : State) (rest : List Turn), reservedState s = none → s.pending = .timer :: rest →
    (s.ch.tmrEn = true → s.edges = [] ∨ nextEventTime s ≤ s.now →
      (s.ch.cmpEn = true ∧ s.ch.cc.toNat < s.ch.per.toNat ∧ s.ch.cmpDone = false →
        step s = exec .txCmp { s with pending := rest }) ∧
      (¬(s.ch.cmpEn = true ∧ s.ch.cc.toNat < s.ch.per.toNat ∧ s.ch.cmpDone = false) →
        step s = exec .txOvf { s with pending := rest })) ∧
    (s.ch.tmrEn = true → s.now < nextEventTime s → ∀ e more, s.edges = e :: more →
      step s = exec (edgeInstr e.dir e.time) { s with edges := more }) ∧
    (s.ch.tmrEn = false → step s = .next { s with pending := rest })

/-- R257 (rows P2 to P66): from the start of data period `k`, the channel's two events of a period lead to the start of
the next data period, after bit 63 to the tail, and after the tail to STOP at index 65 with the line low; each period
lasts its `PER`. -/
def Obligations.TransmissionFollowsTheSchedule : Prop :=
  ∀ s : State, s.cfg.WellFormed →
    (∀ k, k < 63 → AtDataPeriod k s →
      ∃ t, runInstrs pseudoPeriod s = .next t ∧ AtDataPeriod (k + 1) t ∧ t.tx.frame = s.tx.frame ∧
        t.now = s.now + s.cfg.dataPer) ∧
    (AtDataPeriod 63 s →
      ∃ t, runInstrs pseudoPeriod s = .next t ∧ AtTailPeriod t ∧ t.tx.frame = s.tx.frame ∧
        t.now = s.now + s.cfg.dataPer) ∧
    (AtTailPeriod s →
      ∃ t, runInstrs pseudoPeriod s = .next t ∧ t.tx.state = 2 ∧ t.tx.bitIndex = 65 ∧
        t.tx.frame = s.tx.frame ∧ t.ch.tmrEn = false ∧ t.ch.tmrOut = false ∧
        t.now = s.now + s.cfg.tailPer)

/-- R257 (rows P0 and P1), R356: from the propagation period that TX.SEND starts, whatever the active registers, the
channel reaches the marker period with the marker's registers, and from there data period 0. With nothing pending the
steps are the channel's own (log entry 2), on the clock of log entry 12. -/
def Obligations.TransmissionBeginsWithTheMarker : Prop :=
  ∀ (f : Frame) (s : State), s.cfg.WellFormed → s.loopback = false → reservedState s = none → s.edges = [] →
    s.pending = [] →
    ∃ t₀ k t₁ t₂, exec (.txSend f) s = .next t₀ ∧ k ≤ 2 ∧
      Sys2Proof.core.run k t₀ = .next t₁ ∧
      t₁.now = s.now + s.ch.per.toNat ∧ t₁.periodStart = t₁.now ∧
      t₁.ch = { tmrEn := true, cmpEn := true, cmpDone := false
                per := BitVec.ofNat 16 s.cfg.markerPer, cc := BitVec.ofNat 16 s.cfg.markerOn, inv := false
                perB := BitVec.ofNat 16 s.cfg.markerPer, ccB := BitVec.ofNat 16 s.cfg.markerOn, invB := false
                tmrOut := true } ∧
      Sys2Proof.core.run 2 t₁ = .next t₂ ∧
      AtDataPeriod 0 t₂ ∧ t₂.tx.frame = f ∧ t₂.now = t₁.now + s.cfg.markerPer

/-- R258: while the buffered polarity is the polarity-invert flag, the re-assert at index -1 writes the value that
stands there. -/
def Obligations.ReassertWritesTheSameValue : Prop :=
  ∀ s t : State, s.tx.bitIndex = -2 → s.cfg.CounterRange → s.ch.invB = s.tx.invert →
    exec .txOvf s = .next t → t.ch.invB = s.ch.invB ∧ t.tx.invert = s.tx.invert ∧ t.ch.perB = s.ch.perB

/-- R314: while a period runs and time goes by to `τ` µs after its start, `τ < PER`, with no event of the channel in
between and no looped-back transition to deliver first, the line is `(1 if τ < CC else 0) XOR INV`, and nothing else
changes but the time. Time that goes by as a turn of its own is the model's choice (log entry 12). -/
def Obligations.LineFollowsTheWaveform : Prop :=
  ∀ (s : State) (us τ : Nat) (rest : List Turn), reservedState s = none → s.pending = .elapse us :: rest →
    s.edges = [] ∨ us = 0 →
    s.ch.tmrEn = true → s.periodStart ≤ s.now → τ = s.now + us - s.periodStart → τ < s.ch.per.toNat →
    s.now + us ≤ nextEventTime s →
    ∃ t, step s = .next t ∧ t.now = s.now + us ∧
      t.ch = { s.ch with tmrOut := xor (decide (τ < s.ch.cc.toNat)) s.ch.inv } ∧
      t = { s with ch := t.ch, now := t.now, edges := t.edges, pending := rest } ∧
      (s.loopback = false → t.edges = s.edges)

/-- R363, R318, R320: time that goes past the channel's next event does not pass over it: the event comes first, at its
instant, and the rest of the time is still to go by. Nor does time pass over a looped-back transition: that one is
delivered first, and all the time is still to go by. The clock is the model's choice (log entries 12 and 14). -/
def Obligations.TimeDoesNotSkipAnEvent : Prop :=
  ∀ (s : State) (us : Nat) (rest : List Turn), reservedState s = none → s.pending = .elapse us :: rest →
    (s.edges = [] → s.ch.tmrEn = true → s.now ≤ nextEventTime s → nextEventTime s < s.now + us →
      ∃ i t, channelNext s.ch = some i ∧
        step s = exec i { s with pending := .elapse (s.now + us - nextEventTime s) :: rest } ∧
        step s = .next t ∧ t.now = nextEventTime s) ∧
    ∀ e more, s.edges = e :: more → 0 < us → step s = exec (edgeInstr e.dir e.time) { s with edges := more }

/-- R320, R319: with the loopback wired, every change of the line becomes a transition at its time, behind those not yet
delivered: a fall where TX.INIT, TX.STOP or reset drives a high line low; TX.SEND's fall and then its rise; the change at
`CC` of the period; the change at the boundary, at `PER`; and none elsewhere. That TX.SEND's two writes of the line are
two changes (log entry 14), and the instants of the channel's events (log entries 10 to 12), are the model's. -/
def Obligations.LoopbackDeliversTheTransition : Prop :=
  (∀ T : Nat, levelChange true false T = [⟨.falling, T⟩] ∧ levelChange false true T = [⟨.rising, T⟩] ∧
    ∀ b, levelChange b b T = []) ∧
  ∀ s : State, s.loopback = true →
    (∀ t, exec .txInit s = .next t → t.edges = s.edges ++ levelChange s.ch.tmrOut false s.now) ∧
    (∀ t, exec .txStop s = .next t → t.edges = s.edges ++ levelChange s.ch.tmrOut false s.now) ∧
    (∀ f t, exec (.txSend f) s = .next t →
      t.edges = s.edges ++ levelChange s.ch.tmrOut false s.now ++ levelChange false t.ch.tmrOut s.now) ∧
    (∀ t, exec .txCmp s = .next t → compareDue s.ch = true → s.periodStart ≤ s.now →
      s.now ≤ s.periodStart + s.ch.cc.toNat →
      t.edges = s.edges ++ levelChange s.ch.tmrOut s.ch.inv (s.periodStart + s.ch.cc.toNat)) ∧
    (∀ t, exec .txCmp s = .next t → compareDue s.ch = false → t.edges = s.edges) ∧
    (∀ t, exec .txOvf s = .next t → s.ch.tmrEn = true → compareDue s.ch = false → s.periodStart ≤ s.now →
      s.now ≤ s.periodStart + s.ch.per.toNat →
      t.edges = s.edges ++ levelChange s.ch.tmrOut (lastLevel s.ch) (s.periodStart + s.ch.cc.toNat) ++
        levelChange (lastLevel s.ch) t.ch.tmrOut (s.periodStart + s.ch.per.toNat)) ∧
    (∀ t, exec .txOvf s = .next t → s.ch.tmrEn = false ∨ compareDue s.ch = true →
      t.edges = s.edges ++ levelChange s.ch.tmrOut t.ch.tmrOut s.now) ∧
    (reservedState s = none → ∀ rest,
      (∀ us, s.pending = .elapse us :: rest → s.edges = [] → s.ch.tmrEn = true → s.now + us ≤ nextEventTime s →
        ∃ t, step s = .next t ∧ t.edges = levelChange s.ch.tmrOut t.ch.tmrOut (s.periodStart + s.ch.cc.toNat)) ∧
      (s.pending = .reset :: rest →
        ∃ t, step s = .next t ∧ t.edges = s.edges ++ levelChange s.ch.tmrOut false s.now))

/-- R308 (d), R320: EDGE's step delivers the oldest looped-back transition, as RX.RISE or RX.FALL with its time modulo
`2^32`; with nothing pending it comes of itself, before the channel's next event (log entry 2). -/
def Obligations.LoopedBackEdgesAreDeliveredInOrder : Prop :=
  ∀ (s : State) (e : LineEdge) (more : List LineEdge) (rest : List Turn), reservedState s = none → s.edges = e :: more →
    s.pending = .lineEdge :: rest ∨ (s.pending = [] ∧ rest = []) →
    ∃ x : Timestamp, x.toNat = e.time % 2 ^ 32 ∧
      (e.dir = .rising → step s = exec (.rxRise x) { s with edges := more, pending := rest }) ∧
      (e.dir = .falling → step s = exec (.rxFall x) { s with edges := more, pending := rest })

/-- R308 (e): no looped-back transition is lost, duplicated or overtaken by a later one: an operation only adds behind
those undelivered, and a step either does so too or delivers exactly the oldest one; without the loopback nothing is
added. -/
def Obligations.LineEdgesAreNotLost : Prop :=
  (∀ (i : Instr) (s t : State), exec i s = .next t →
    ∃ new, t.edges = s.edges ++ new ∧ (s.loopback = false → new = [])) ∧
  ∀ s t : State, step s = .next t →
    (∃ new, t.edges = s.edges ++ new ∧ (s.loopback = false → new = [])) ∨
    ∃ e more, s.edges = e :: more ∧ t.edges = more ∧
      ∃ turns, step s = exec (edgeInstr e.dir e.time) { s with edges := more, pending := turns }

/-- R259: the round trip. Through the loopback, from every state with legal state registers, in every well-formed
configuration, a frame that is sent is received: the run reaches STOP with the frame in the RX buffer, complete. The
channel's registers hold `TMR_W` bits, and no earlier transition is on its way. The run is the model's: the loopback's
transitions and the channel's own steps (log entries 2, 12, 14). -/
def Obligations.RoundTripReproducesTheFrame : Prop :=
  ∀ (f : Frame) (s : State), s.cfg.WellFormed → TimerRegistersFit s.cfg s.ch → reservedState s = none →
    s.loopback = true → s.edges = [] → s.pending = [.command .consumer (encode (.txSend f))] →
    ∃ k t, k ≤ 300 ∧ Sys2Proof.core.run k s = .next t ∧
      t.tx.state = 2 ∧ t.tx.bitIndex = 65 ∧ t.ch.tmrEn = false ∧ t.ch.tmrOut = false ∧ t.pending = [] ∧ t.edges = [] ∧
      t.rx.frame = f ∧ t.rx.done = true ∧ t.rx.state = 0 ∧ t.rx.bitIndex = 64

/-! ### Outcomes and agents -/

/-- R301, R305: an operation always ends with an outcome: unless `rx_state` holds the reserved value, every operation
answers a next state with `OK` or `RANGE_ERROR`, whatever its operands. -/
def Obligations.EveryOperationEndsWithAnOutcome : Prop :=
  ∀ (i : Instr) (s : State), s.rx.state ≠ 3 →
    ∃ t, exec i s = .next t ∧
      (outcomeCode t.response = some 0 ∨
        (outcomeCode t.response = some 1 ∧ ((∃ f j, i = .lyBit f j) ∨ (∃ f j, i = .lyByte f j) ∨
          (∃ f, i = .lyCurrent f) ∨ ∃ f v, i = .lyPower f v)))

/-- R301: "An operation whose outcome is not `OK` writes no state and returns no result." -/
def Obligations.ErrorsWriteNoState : Prop :=
  ∀ (i : Instr) (s t : State), exec i s = .next t → outcomeCode t.response ≠ some 0 →
    (∃ kind value, t = { s with response := .rangeError kind value })

/-- R53: which operations write which registers, one clause per row of the table (reset is the RESET agent's step, no
operation). -/
def Obligations.RegistersHaveTheirWritersOnly : Prop :=
  ∀ (i : Instr) (s t : State), exec i s = .next t →
    (t.rx.frame ≠ s.rx.frame → ∃ w, forwardedWidth i s = some w) ∧
    (t.rx.bitIndex ≠ s.rx.bitIndex → ∃ w, forwardedWidth i s = some w) ∧
    (t.rx.state ≠ s.rx.state → ∃ w, forwardedWidth i s = some w) ∧
    (t.rx.done ≠ s.rx.done → (∃ w, forwardedWidth i s = some w) ∨ i = .rxAck) ∧
    (t.rx.lastRise ≠ s.rx.lastRise ∨ t.rx.riseValid ≠ s.rx.riseValid → ∃ x, i = .rxRise x) ∧
    (t.rx.lastFall ≠ s.rx.lastFall → ∃ x, i = .rxFall x) ∧
    (t.tx.frame ≠ s.tx.frame → i = .txInit ∨ ∃ f, i = .txSend f) ∧
    (t.tx.bitIndex ≠ s.tx.bitIndex → i = .txInit ∨ i = .txOvf ∨ ∃ f, i = .txSend f) ∧
    (t.tx.state ≠ s.tx.state → i = .txInit ∨ i = .txOvf ∨ i = .txStop ∨ ∃ f, i = .txSend f) ∧
    (t.tx.invert ≠ s.tx.invert → i = .txInit ∨ i = .txOvf ∨ ∃ f, i = .txSend f) ∧
    (t.ch.tmrEn ≠ s.ch.tmrEn → i = .txInit ∨ i = .txOvf ∨ i = .txStop ∨ ∃ f, i = .txSend f) ∧
    (t.ch.cmpEn ≠ s.ch.cmpEn → i = .txInit ∨ ∃ f, i = .txSend f) ∧
    (t.ch.cmpDone ≠ s.ch.cmpDone → isTx i = true) ∧
    (t.ch.perB ≠ s.ch.perB → i = .txInit ∨ i = .txOvf ∨ ∃ f, i = .txSend f) ∧
    (t.ch.ccB ≠ s.ch.ccB → i = .txInit ∨ i = .txCmp ∨ ∃ f, i = .txSend f) ∧
    (t.ch.invB ≠ s.ch.invB → i = .txInit ∨ i = .txOvf ∨ ∃ f, i = .txSend f) ∧
    (t.ch.per ≠ s.ch.per ∨ t.ch.cc ≠ s.ch.cc ∨ t.ch.inv ≠ s.ch.inv →
      i = .txInit ∨ (i = .txOvf ∧ s.ch.tmrEn = true)) ∧
    (t.ch.tmrOut ≠ s.ch.tmrOut → isTx i = true)

/-- R57: the units share no register. An RX operation leaves the TX unit and the channel and depends on the RX context
only; a TX operation leaves the RX context and depends on it in nothing. -/
def Obligations.UnitsAreIndependent : Prop :=
  (∀ (i : Instr) (s s' t : State), isRx i = true → s'.cfg = s.cfg → s'.rx = s.rx → exec i s = .next t →
    t.tx = s.tx ∧ t.ch = s.ch ∧ t.now = s.now ∧ t.edges = s.edges ∧ t.pending = s.pending ∧
    ∃ t', exec i s' = .next t' ∧ t'.rx = t.rx ∧ t'.response = t.response) ∧
  ∀ (i : Instr) (s t : State) (rx : RxContext), isTx i = true → exec i s = .next t →
    t.rx = s.rx ∧ exec i { s with rx := rx } = .next { t with rx := rx }

/-- R308 (b): an edge and a timer event commute. -/
def Obligations.EdgeAndTimerEventsCommute : Prop :=
  ∀ (a b : Instr) (s s₁ s₂ : State), isEdgeEvent a = true → isTimerEvent b = true →
    exec a s = .next s₁ → exec b s = .next s₂ → ∃ t, exec b s₁ = .next t ∧ exec a s₂ = .next t

/-- R312: the consumer has no TX.OVF, TX.CMP, RX.RISE, RX.FALL or RX.PULSE step, and the edge source has its three
operations only; every other operation of theirs runs, the edge source's after the looped-back transitions on their way
(R308 (d); that EDGE's RX.PULSE waits too is the model's reading, log entry 14). That a turn of the wrong agent is refused
by name is the model's choice (log entry 6). -/
def Obligations.AgentsIssueTheirOwnOperations : Prop :=
  ∀ (i : Instr) (s : State) (rest : List Turn), reservedState s = none →
    (s.pending = .command .consumer (encode i) :: rest →
      (isEdgeEvent i = true ∨ isTimerEvent i = true → step s = .refused (.notIssued .consumer)) ∧
      (isEdgeEvent i = false → isTimerEvent i = false → step s = exec i { s with pending := rest })) ∧
    (s.pending = .command .edge (encode i) :: rest →
      (isEdgeEvent i = true → s.edges = [] → step s = exec i { s with pending := rest }) ∧
      (isEdgeEvent i = true → ∀ e more, s.edges = e :: more →
        step s = exec (edgeInstr e.dir e.time) { s with edges := more }) ∧
      (isEdgeEvent i = false → step s = .refused (.notIssued .edge)))

/-- A step runs the decoded instruction: where the next turn's bytes decode to an operation its agent may issue, the
step is that operation on the state the turn has left, the bytes after it being the agent's next turn (R105, R110; the
list of turns is the model's choice, log entry 1). With looped-back transitions on their way, a later edge of the line
(R308 (d)) and an operation that lets time go by (R320) wait: the oldest transition comes first, and the turn stays. Which
operations these are is the model's reading (log entry 14). -/
def Obligations.StepRunsTheDecodedOperation : Prop :=
  ∀ (a : Agent) (bytes more : List Byte) (i : Instr) (s : State) (rest : List Turn),
    reservedState s = none → s.pending = .command a bytes :: rest → decode bytes = .ok (i, more) →
    mayIssue a i s = true →
    (s.edges = [] ∨ (isLaterEdge a i = false ∧ takesTime i s = false) →
      step s = exec i { s with pending := if more = [] then rest else .command a more :: rest }) ∧
    (isLaterEdge a i = true ∨ takesTime i s = true → ∀ e later, s.edges = e :: later →
      step s = exec (edgeInstr e.dir e.time) { s with edges := later })

/-- R319, R320: a transition of the line at time `T` is RX.RISE or RX.FALL with `T` modulo `2^32`; it does not overtake a
looped-back one on its way, which is delivered first (R308 (d)). -/
def Obligations.TransitionIsAnEdgeOperation : Prop :=
  ∀ (s : State) (T : Nat) (d : EdgeDir) (rest : List Turn), reservedState s = none →
    s.pending = .transition d T :: rest →
    (s.edges = [] → ∃ x : Timestamp, x.toNat = T % 2 ^ 32 ∧
      (d = .rising → step s = exec (.rxRise x) { s with pending := rest }) ∧
      (d = .falling → step s = exec (.rxFall x) { s with pending := rest })) ∧
    ∀ e more, s.edges = e :: more → step s = exec (edgeInstr e.dir e.time) { s with edges := more }

/-! ### Reset and whole-machine rules -/

/-- R56: every register after reset, in every configuration whose times fit the channel's registers (R250 (a)), and so at
the defaults (532, 512); for the TX unit and the channel it is what TX.INIT gives. -/
def Obligations.ResetValues : Prop :=
  (State.reset = State.resetIn Config.nominal ∧ State.reset.ch.per = 532 ∧ State.reset.ch.perB = 532 ∧
    State.reset.ch.cc = 512 ∧ State.reset.ch.ccB = 512) ∧
  ∀ c : Config, c.TimesFit →
    (State.resetIn c).rx = { frame := 0, bitIndex := 0, state := 0, done := false, lastRise := 0, riseValid := false,
                             lastFall := 0 } ∧
    (State.resetIn c).tx = { frame := 0, bitIndex := 0, state := 0, invert := false } ∧
    (State.resetIn c).ch = { tmrEn := false, cmpEn := false, cmpDone := false
                             per := BitVec.ofNat 16 c.markerPer, cc := BitVec.ofNat 16 c.markerOn, inv := false
                             perB := BitVec.ofNat 16 c.markerPer, ccB := BitVec.ofNat 16 c.markerOn, invB := false
                             tmrOut := false } ∧
    ∀ s t : State, s.cfg = c → exec .txInit s = .next t → t.tx = (State.resetIn c).tx ∧ t.ch = (State.resetIn c).ch

/-- R350, R56: the RESET agent's step puts every register at its reset value, from any state with legal registers, and
gives the TX unit and the channel exactly what TX.INIT gives them; what is no register of the block stays, the clock,
the period's start and the turns among it (the model's choice, log entry 16). -/
def Obligations.ResetTurnResetsTheBlock : Prop :=
  ∀ (s : State) (rest : List Turn), reservedState s = none → s.pending = .reset :: rest →
    ∃ t u, step s = .next t ∧
      t.rx = { frame := 0, bitIndex := 0, state := 0, done := false, lastRise := 0, riseValid := false,
               lastFall := 0 } ∧
      exec .txInit s = .next u ∧ t.tx = u.tx ∧ t.ch = u.ch ∧ t.ch.tmrEn = false ∧ t.ch.tmrOut = false ∧
      t.cfg = s.cfg ∧ t.now = s.now ∧ t.periodStart = s.periodStart ∧ t.loopback = s.loopback ∧ t.response = s.response ∧
      t.pending = rest ∧ (s.loopback = false ∨ s.ch.tmrOut = false → t.edges = s.edges)

/-- R351: with nothing pending, on the way or running, as after reset, the block waits; with the channel running, the
channel's next event comes. That an empty list of turns is the channel's turn is the model's choice (log entry 2). -/
def Obligations.BlockWaitsForEvents : Prop :=
  (∀ s : State, reservedState s = none → s.pending = [] → s.edges = [] → s.ch.tmrEn = false → step s = .next s) ∧
  (∀ k, Sys2Proof.core.run k Sys2Proof.core.reset = .next Sys2Proof.core.reset) ∧
  ∀ (s : State) (i : Instr), reservedState s = none → s.pending = [] → s.edges = [] → channelNext s.ch = some i →
    step s = exec i s

/-- R52, R352 (a): no step writes the configuration (or the wiring of the loopback). -/
def Obligations.ConfigurationNeverChanges : Prop :=
  ∀ s t : State, step s = .next t → t.cfg = s.cfg ∧ t.loopback = s.loopback

/-- The invariant holds at reset (R54, R55, R56). -/
def Obligations.InvariantAtReset : Prop :=
  Invariant State.reset ∧ ∀ c : Config, c.WellFormed → Invariant (State.resetIn c)

/-- R54, R55, the channel's own rules and the loopback's zero delay (R320): every step keeps the invariant, whichever agent
moves. Its clock is log entry 12's, the line's level at `τ = PER`, before the boundary's step, log entry 13's, and the
list of transitions on their way log entry 14's. -/
def Obligations.StepKeepsTheInvariant : Prop :=
  ∀ s t : State, Invariant s → step s = .next t → Invariant t
end

