-- ==== Sys2Proof/Laws/Encoding.lean ====
section
/-! SUPPORT. The byte order of command operands (R105). -/

namespace Sys2Proof

@[simp] theorem beBytes_length (n v : Nat) : (beBytes n v).length = n := by
  induction n with
  | zero => rfl
  | succ n ih => simp [beBytes, ih]

theorem beValue_foldl (bytes : List Byte) (acc : Nat) :
    bytes.foldl (fun acc b => acc * 256 + b.toNat) acc = acc * 256 ^ bytes.length + beValue bytes := by
  induction bytes generalizing acc with
  | nil => simp [beValue]
  | cons b rest ih =>
    have h := ih b.toNat
    simp only [beValue, List.foldl_cons, List.length_cons] at *
    rw [ih, Nat.zero_mul, Nat.zero_add, h, Nat.pow_succ]
    ring

theorem beValue_cons (b : Byte) (rest : List Byte) :
    beValue (b :: rest) = b.toNat * 256 ^ rest.length + beValue rest := by
  have := beValue_foldl rest b.toNat
  simpa [beValue] using this

/-- Reading back the `n` low bytes of a number gives the number modulo `256 ^ n`. -/
theorem beValue_beBytes (n v : Nat) : beValue (beBytes n v) = v % 256 ^ n := by
  induction n with
  | zero => simp [beBytes, beValue, Nat.mod_one]
  | succ n ih =>
    rw [beBytes, beValue_cons, ih, beBytes_length, BitVec.toNat_ofNat, show (2 : Nat) ^ 8 = 256 from rfl,
      Nat.pow_succ, Nat.mod_mul]
    ring

/-- A string of bytes spells a number below `256 ^ length`. -/
theorem beValue_lt (bytes : List Byte) : beValue bytes < 256 ^ bytes.length := by
  induction bytes with
  | nil => simp [beValue]
  | cons b rest ih =>
    rw [beValue_cons, List.length_cons, Nat.pow_succ]
    have := b.isLt
    nlinarith [Nat.one_le_pow rest.length 256 (by decide)]

/-- An operand written in front of other bytes is read back. -/
theorem takeOperand_beBytes (n v : Nat) (rest : List Byte) :
    takeOperand n (beBytes n v ++ rest) = some (v % 256 ^ n, rest) := by
  have hl := beBytes_length n v
  simp [takeOperand, hl, beValue_beBytes]

/-- What reading an operand answers, and when. -/
theorem takeOperand_eq_some_iff {n v : Nat} {bytes rest : List Byte} :
    takeOperand n bytes = some (v, rest) ↔ n ≤ bytes.length ∧ v = beValue (bytes.take n) ∧ rest = bytes.drop n := by
  unfold takeOperand
  split <;> simp_all [eq_comm]

/-! ### The decoder by format -/

@[simp] theorem decode_cons (op : Byte) (rest : List Byte) : decode (op :: rest) = decodeOperands op rest := rfl

/-- What reading format T answers on a word with four operand bytes. -/
theorem decodeT_beBytes (op : Byte) (k : BitVec 32 → Instr) (t : BitVec 32) (rest : List Byte) :
    decodeT op k (beBytes 4 t.toNat ++ rest) = .ok (k t, rest) := by
  have h : t.toNat % 256 ^ 4 = t.toNat := Nat.mod_eq_of_lt t.isLt
  simp only [decodeT, takeOperand_beBytes, h]
  simp

/-- What reading format F answers on a word with eight operand bytes. -/
theorem decodeF_beBytes (op : Byte) (k : Frame → Instr) (f : Frame) (rest : List Byte) :
    decodeF op k (beBytes 8 f.toNat ++ rest) = .ok (k f, rest) := by
  have h : f.toNat % 256 ^ 8 = f.toNat := Nat.mod_eq_of_lt f.isLt
  simp only [decodeF, takeOperand_beBytes, h]
  simp

/-- What reading format FI answers on a word with nine operand bytes. -/
theorem decodeFI_beBytes (op : Byte) (k : Frame → Byte → Instr) (f : Frame) (i : Byte) (rest : List Byte) :
    decodeFI op k (beBytes 8 f.toNat ++ (beBytes 1 i.toNat ++ rest)) = .ok (k f i, rest) := by
  have h : f.toNat % 256 ^ 8 = f.toNat := Nat.mod_eq_of_lt f.isLt
  have h' : i.toNat % 256 ^ 1 = i.toNat := Nat.mod_eq_of_lt i.isLt
  simp only [decodeFI, takeOperand_beBytes, h, h']
  simp

/-- What reading format FV answers on a word with ten operand bytes. -/
theorem decodeFV_beBytes (op : Byte) (k : Frame → Volts → Instr) (f : Frame) (v : Volts) (rest : List Byte) :
    decodeFV op k (beBytes 8 f.toNat ++ (beBytes 2 v.toNat ++ rest)) = .ok (k f v, rest) := by
  have h : f.toNat % 256 ^ 8 = f.toNat := Nat.mod_eq_of_lt f.isLt
  have h' : v.toNat % 256 ^ 2 = v.toNat := Nat.mod_eq_of_lt v.isLt
  simp only [decodeFV, takeOperand_beBytes, h, h']
  simp

end Sys2Proof
end

