-- ==== Sys2Proof/Laws/Operands.lean ====
section
/-! SUPPORT. The operand and status functions as arithmetic on the numbers they stand for. -/

namespace Sys2Proof.Machine

open Sys2Proof

/-- A slice of a register is a quotient and a remainder (R11). -/
theorem toNat_slice {w : Nat} (v : BitVec w) (lo len : Nat) :
    (v.extractLsb' lo len).toNat = v.toNat / 2 ^ lo % 2 ^ len := by
  rw [BitVec.extractLsb'_toNat, Nat.shiftRight_eq_div_pow]

/-- A frame bit as a number (R12). -/
theorem frameBit_toNat (f : Frame) (i : Nat) : (frameBit f i).toNat = f.toNat / 2 ^ (63 - i) % 2 := by
  rw [frameBit, toNat_slice, Nat.pow_one]

/-- A frame byte as a number (R12). -/
theorem frameByte_toNat (f : Frame) (j : Nat) (h : j ≤ 7) :
    (frameByte f j).toNat = f.toNat / 256 ^ (7 - j) % 256 := by
  rw [frameByte, toNat_slice, show (256 : Nat) = 2 ^ 8 from rfl, ← Nat.pow_mul,
    show 8 * (7 - j) = 56 - 8 * j by omega]

/-- The exponent field as a number (R100). -/
theorem exponent_toNat (f : Frame) : (frameFields f).exponent.toNat = f.toNat / 256 % 256 :=
  toNat_slice f 8 8

/-- The current field as a number (R100). -/
theorem currentRaw_toNat (f : Frame) : (frameFields f).currentRaw.toNat = f.toNat / 2 ^ 16 % 2 ^ 16 :=
  toNat_slice f 16 16

/-- Shifting a bit in doubles the buffer, drops its top bit and adds the bit (R143). -/
theorem shiftIn_toNat (f : Frame) (b : Bool) : (shiftIn f b).toNat = f.toNat * 2 % 2 ^ 64 + b.toNat := by
  have hb : ((BitVec.ofBool b).setWidth 64).toNat = b.toNat := by cases b <;> rfl
  have hs : f.toNat * 2 ^ 1 % 2 ^ 64 = 2 ^ 1 * (f.toNat % 2 ^ 63) := by omega
  rw [shiftIn, BitVec.toNat_or, hb, BitVec.toNat_shiftLeft, Nat.shiftLeft_eq, hs,
    ← Nat.two_pow_add_eq_or_of_lt (by cases b <;> decide)]
  omega

/-- The width a falling edge measures, as a number (R142). -/
theorem toNat_timestamp_sub (t r : Timestamp) : (t - r).toNat = (t.toNat + 2 ^ 32 - r.toNat) % 2 ^ 32 := by
  rw [BitVec.toNat_sub]
  have := r.isLt
  congr 1
  omega

@[simp] theorem isMarker_eq_true_iff (c : Config) (w : PulseWidth) : isMarker c w = true ↔ c.markerMin < w.toNat := by
  simp [isMarker]

@[simp] theorem isTail_eq_true_iff (c : Config) (w : PulseWidth) (b : Int) :
    isTail c w b = true ↔ w.toNat < c.tailMax ∧ c.lastIndex < b := by
  simp [isTail]

@[simp] theorem isOne_eq_true_iff (c : Config) (w : PulseWidth) : isOne c w = true ↔ c.oneMin < w.toNat := by
  simp [isOne]

@[simp] theorem fallExceedsRise_eq_true_iff (c : Config) (d : PulseWidth) :
    fallExceedsRise c d = true ↔ 0 < d.toNat ∧ d.toNat < 2 ^ (c.tsW - 1) := by
  simp [fallExceedsRise]

/-! ### Reductions to a register's width -/

theorem lowBits_toNat {w : Nat} (k : Nat) (v : BitVec w) : (lowBits k v).toNat = v.toNat % 2 ^ k := by
  rw [lowBits, BitVec.toNat_ofNat]
  exact Nat.mod_eq_of_lt (Nat.lt_of_le_of_lt (Nat.mod_le _ _) v.isLt)

/-- A value that fits is not reduced. -/
theorem lowBits_of_lt {w : Nat} {k : Nat} {v : BitVec w} (h : v.toNat < 2 ^ k) : lowBits k v = v := by
  apply BitVec.eq_of_toNat_eq
  rw [lowBits_toNat, Nat.mod_eq_of_lt h]

/-- All the bits of a register are the register. -/
@[simp] theorem lowBits_self {w : Nat} (v : BitVec w) : lowBits w v = v := lowBits_of_lt v.isLt

theorem signedBits_of_fits {k : Nat} {x : Int} (hk : 0 < k) (h₁ : -2 ^ (k - 1) ≤ x) (h₂ : x < 2 ^ (k - 1)) :
    signedBits k x = x := by
  obtain ⟨j, rfl⟩ : ∃ j, k = j + 1 := ⟨k - 1, by omega⟩
  simp only [Nat.add_sub_cancel] at h₁ h₂
  have hp : ((2 ^ (j + 1) : Nat) : Int) = 2 * 2 ^ j := by push_cast; ring
  have h2 : (2 ^ (j + 1) : Nat) = 2 * 2 ^ j := by ring
  unfold signedBits
  generalize hm : (2 ^ j : Int) = m at *
  rw [h2]
  have hmn : ((2 ^ j : Nat) : Int) = m := by rw [← hm]; push_cast; rfl
  generalize (2 ^ j : Nat) = n at *
  exact Int.bmod_eq_of_le (by omega) (by omega)

/-- `sat_inc` is exact where `BI_MAX` and the index fit `BI_W` bits (R13). -/
theorem satInc_eq {c : Config} {b : Int} (hk : 0 < c.biW) (h₁ : -2 ^ (c.biW - 1) ≤ b)
    (h₂ : -2 ^ (c.biW - 1) ≤ c.biMax) (h₃ : c.biMax < 2 ^ (c.biW - 1)) : satInc c b = min (b + 1) c.biMax :=
  signedBits_of_fits hk (by omega) (by omega)

/-- A parameter that fits `TMR_W` bits is written as it is. -/
theorem timerWord_of_fits {c : Config} {us : Nat} (h : us < 2 ^ c.tmrW) : timerWord c us = BitVec.ofNat 16 us := by
  rw [timerWord, Nat.mod_eq_of_lt h]

theorem timerWord_toNat {c : Config} {us : Nat} (h : us < 2 ^ c.tmrW) (hw : c.tmrW ≤ 16) :
    (timerWord c us).toNat = us := by
  have h16 : 2 ^ c.tmrW ≤ 2 ^ 16 := Nat.pow_le_pow_right (by omega) hw
  rw [timerWord, BitVec.toNat_ofNat, Nat.mod_eq_of_lt h, Nat.mod_eq_of_lt (by omega)]

/-- The difference of two timestamps modulo `2^TS_W`, as a number (R142, D4). -/
theorem timestampDiff_toNat {c : Config} (t r : Timestamp) (h : c.tsW ≤ 32) :
    (timestampDiff c t r).toNat = (t.toNat + 2 ^ 32 - r.toNat) % 2 ^ c.tsW := by
  rw [timestampDiff, lowBits_toNat, toNat_timestamp_sub, Nat.mod_mod_of_dvd]
  exact Nat.pow_dvd_pow 2 h

/-- With `k` fractional bits above 15 the fixed-point encoding is exact (R205, R206). -/
theorem fixedPoint_toNat {c : Config} {n k : Nat} (hc : c.fracBits = 15 + k) (h : n * 2 ^ k < 2 ^ 64) :
    (fixedPoint c n).toNat = n * 2 ^ k := by
  rw [fixedPoint, hc, Nat.pow_add, Nat.mul_comm (2 ^ 15), ← Nat.mul_assoc, Nat.mul_div_cancel _ (by decide),
    BitVec.toNat_ofNat, Nat.mod_eq_of_lt h]

/-- Within a period the line is `(1 if τ < CC else 0) XOR INV` (R314). -/
theorem waveLevel_of_lt (per cc : Micros) (inv : Bool) (τ : Nat) (h : τ < per.toNat) :
    waveLevel per cc inv τ = xor (decide (τ < cc.toNat)) inv := by
  rw [waveLevel, Nat.min_eq_left (by omega)]

/-- The level at a period's start (R316). -/
theorem waveLevel_zero (per cc : Micros) (inv : Bool) :
    waveLevel per cc inv 0 = xor (decide (0 < cc.toNat)) inv := by
  rw [waveLevel, Nat.zero_min]

end Sys2Proof.Machine
end

