-- ==== Sys2Proof/Laws/State.lean ====
section
/-! SUPPORT. What each named update of the state does to each field. -/

namespace Sys2Proof.Machine

open Sys2Proof

/-! ### `State.answer` -/
@[simp] theorem State.answer_cfg (r : Response) (s : State) : (s.answer r).cfg = s.cfg := rfl
@[simp] theorem State.answer_rx (r : Response) (s : State) : (s.answer r).rx = s.rx := rfl
@[simp] theorem State.answer_tx (r : Response) (s : State) : (s.answer r).tx = s.tx := rfl
@[simp] theorem State.answer_ch (r : Response) (s : State) : (s.answer r).ch = s.ch := rfl
@[simp] theorem State.answer_now (r : Response) (s : State) : (s.answer r).now = s.now := rfl
@[simp] theorem State.answer_periodStart (r : Response) (s : State) : (s.answer r).periodStart = s.periodStart := rfl
@[simp] theorem State.answer_loopback (r : Response) (s : State) : (s.answer r).loopback = s.loopback := rfl
@[simp] theorem State.answer_edges (r : Response) (s : State) : (s.answer r).edges = s.edges := rfl
@[simp] theorem State.answer_pending (r : Response) (s : State) : (s.answer r).pending = s.pending := rfl
@[simp] theorem State.answer_response (r : Response) (s : State) : (s.answer r).response = r := rfl

/-! ### `State.setRx` -/
@[simp] theorem State.setRx_cfg (v : RxContext) (s : State) : (s.setRx v).cfg = s.cfg := rfl
@[simp] theorem State.setRx_rx (v : RxContext) (s : State) : (s.setRx v).rx = v := rfl
@[simp] theorem State.setRx_tx (v : RxContext) (s : State) : (s.setRx v).tx = s.tx := rfl
@[simp] theorem State.setRx_ch (v : RxContext) (s : State) : (s.setRx v).ch = s.ch := rfl
@[simp] theorem State.setRx_now (v : RxContext) (s : State) : (s.setRx v).now = s.now := rfl
@[simp] theorem State.setRx_periodStart (v : RxContext) (s : State) : (s.setRx v).periodStart = s.periodStart := rfl
@[simp] theorem State.setRx_loopback (v : RxContext) (s : State) : (s.setRx v).loopback = s.loopback := rfl
@[simp] theorem State.setRx_edges (v : RxContext) (s : State) : (s.setRx v).edges = s.edges := rfl
@[simp] theorem State.setRx_pending (v : RxContext) (s : State) : (s.setRx v).pending = s.pending := rfl
@[simp] theorem State.setRx_response (v : RxContext) (s : State) : (s.setRx v).response = s.response := rfl

/-! ### `State.setTx` -/
@[simp] theorem State.setTx_cfg (v : TxContext) (s : State) : (s.setTx v).cfg = s.cfg := rfl
@[simp] theorem State.setTx_rx (v : TxContext) (s : State) : (s.setTx v).rx = s.rx := rfl
@[simp] theorem State.setTx_tx (v : TxContext) (s : State) : (s.setTx v).tx = v := rfl
@[simp] theorem State.setTx_ch (v : TxContext) (s : State) : (s.setTx v).ch = s.ch := rfl
@[simp] theorem State.setTx_now (v : TxContext) (s : State) : (s.setTx v).now = s.now := rfl
@[simp] theorem State.setTx_periodStart (v : TxContext) (s : State) : (s.setTx v).periodStart = s.periodStart := rfl
@[simp] theorem State.setTx_loopback (v : TxContext) (s : State) : (s.setTx v).loopback = s.loopback := rfl
@[simp] theorem State.setTx_edges (v : TxContext) (s : State) : (s.setTx v).edges = s.edges := rfl
@[simp] theorem State.setTx_pending (v : TxContext) (s : State) : (s.setTx v).pending = s.pending := rfl
@[simp] theorem State.setTx_response (v : TxContext) (s : State) : (s.setTx v).response = s.response := rfl

/-! ### `State.beginPeriod` -/
@[simp] theorem State.beginPeriod_cfg (s : State) : (s.beginPeriod).cfg = s.cfg := rfl
@[simp] theorem State.beginPeriod_rx (s : State) : (s.beginPeriod).rx = s.rx := rfl
@[simp] theorem State.beginPeriod_tx (s : State) : (s.beginPeriod).tx = s.tx := rfl
@[simp] theorem State.beginPeriod_ch (s : State) : (s.beginPeriod).ch = s.ch := rfl
@[simp] theorem State.beginPeriod_now (s : State) : (s.beginPeriod).now = s.now := rfl
@[simp] theorem State.beginPeriod_periodStart (s : State) : (s.beginPeriod).periodStart = s.now := rfl
@[simp] theorem State.beginPeriod_loopback (s : State) : (s.beginPeriod).loopback = s.loopback := rfl
@[simp] theorem State.beginPeriod_edges (s : State) : (s.beginPeriod).edges = s.edges := rfl
@[simp] theorem State.beginPeriod_pending (s : State) : (s.beginPeriod).pending = s.pending := rfl
@[simp] theorem State.beginPeriod_response (s : State) : (s.beginPeriod).response = s.response := rfl

/-! ### `State.markCompared` -/
@[simp] theorem State.markCompared_cfg (s : State) : (s.markCompared).cfg = s.cfg := rfl
@[simp] theorem State.markCompared_rx (s : State) : (s.markCompared).rx = s.rx := rfl
@[simp] theorem State.markCompared_tx (s : State) : (s.markCompared).tx = s.tx := rfl
@[simp] theorem State.markCompared_ch (s : State) : (s.markCompared).ch = { s.ch with cmpDone := true } := rfl
@[simp] theorem State.markCompared_now (s : State) : (s.markCompared).now = s.now := rfl
@[simp] theorem State.markCompared_periodStart (s : State) : (s.markCompared).periodStart = s.periodStart := rfl
@[simp] theorem State.markCompared_loopback (s : State) : (s.markCompared).loopback = s.loopback := rfl
@[simp] theorem State.markCompared_edges (s : State) : (s.markCompared).edges = s.edges := rfl
@[simp] theorem State.markCompared_pending (s : State) : (s.markCompared).pending = s.pending := rfl
@[simp] theorem State.markCompared_response (s : State) : (s.markCompared).response = s.response := rfl

/-! ### `State.driveChannel` -/
@[simp] theorem State.driveChannel_cfg (time : Nat) (v : Channel) (s : State) : (s.driveChannel time v).cfg = s.cfg := rfl
@[simp] theorem State.driveChannel_rx (time : Nat) (v : Channel) (s : State) : (s.driveChannel time v).rx = s.rx := rfl
@[simp] theorem State.driveChannel_tx (time : Nat) (v : Channel) (s : State) : (s.driveChannel time v).tx = s.tx := rfl
@[simp] theorem State.driveChannel_ch (time : Nat) (v : Channel) (s : State) : (s.driveChannel time v).ch = v := rfl
@[simp] theorem State.driveChannel_now (time : Nat) (v : Channel) (s : State) : (s.driveChannel time v).now = s.now := rfl
@[simp] theorem State.driveChannel_periodStart (time : Nat) (v : Channel) (s : State) : (s.driveChannel time v).periodStart = s.periodStart := rfl
@[simp] theorem State.driveChannel_loopback (time : Nat) (v : Channel) (s : State) : (s.driveChannel time v).loopback = s.loopback := rfl
@[simp] theorem State.driveChannel_response (time : Nat) (v : Channel) (s : State) : (s.driveChannel time v).response = s.response := rfl

@[simp] theorem State.driveChannel_pending (time : Nat) (v : Channel) (s : State) : (s.driveChannel time v).pending = s.pending := rfl
@[simp] theorem State.driveChannel_edges (time : Nat) (v : Channel) (s : State) :
    (s.driveChannel time v).edges = s.edges ++ (if s.loopback then levelChange s.ch.tmrOut v.tmrOut time else []) := rfl

/-! ### `State.asksAgain` -/
@[simp] theorem State.asksAgain_eq (t : Turn) (s : State) : s.asksAgain t = { s with pending := t :: s.pending } := rfl

/-! ### Transitions of the line -/

@[simp] theorem levelChange_same (b : Bool) (time : Nat) : levelChange b b time = [] := by simp [levelChange]
@[simp] theorem levelChange_fall (time : Nat) : levelChange true false time = [⟨.falling, time⟩] := rfl
@[simp] theorem levelChange_rise (time : Nat) : levelChange false true time = [⟨.rising, time⟩] := rfl

/-- Without the loopback, writing the channel adds no transition. -/
theorem State.driveChannel_edges_of_unwired (time : Nat) (v : Channel) (s : State) (h : s.loopback = false) :
    (s.driveChannel time v).edges = s.edges := by
  simp [h]

/-- Writing the channel at an unchanged level adds no transition. -/
theorem State.driveChannel_edges_of_same (time : Nat) (v : Channel) (s : State) (h : v.tmrOut = s.ch.tmrOut) :
    (s.driveChannel time v).edges = s.edges := by
  simp [h]

/-- Two answers in a row: the later one stands. -/
@[simp] theorem State.answer_answer (r q : Response) (s : State) : (s.answer r).answer q = s.answer q := rfl

/-- Writing the RX context commutes with writing the TX context. -/
theorem State.setRx_setTx (v : RxContext) (u : TxContext) (s : State) :
    (s.setTx u).setRx v = (s.setRx v).setTx u := rfl

/-- Writing the RX context commutes with writing the channel (R57). -/
theorem State.setRx_driveChannel (v : RxContext) (time : Nat) (u : Channel) (s : State) :
    (s.driveChannel time u).setRx v = (s.setRx v).driveChannel time u := rfl

/-! ### The channel's own updates -/

@[simp] theorem timerDisable_tmrEn (ch : Channel) : (timerDisable ch).tmrEn = false := rfl
@[simp] theorem timerDisable_cmpEn (ch : Channel) : (timerDisable ch).cmpEn = ch.cmpEn := rfl
@[simp] theorem timerDisable_cmpDone (ch : Channel) : (timerDisable ch).cmpDone = false := rfl
@[simp] theorem timerDisable_per (ch : Channel) : (timerDisable ch).per = ch.per := rfl
@[simp] theorem timerDisable_cc (ch : Channel) : (timerDisable ch).cc = ch.cc := rfl
@[simp] theorem timerDisable_inv (ch : Channel) : (timerDisable ch).inv = ch.inv := rfl
@[simp] theorem timerDisable_perB (ch : Channel) : (timerDisable ch).perB = ch.perB := rfl
@[simp] theorem timerDisable_ccB (ch : Channel) : (timerDisable ch).ccB = ch.ccB := rfl
@[simp] theorem timerDisable_invB (ch : Channel) : (timerDisable ch).invB = ch.invB := rfl
@[simp] theorem timerDisable_tmrOut (ch : Channel) : (timerDisable ch).tmrOut = false := rfl

@[simp] theorem timerStart_tmrEn (ch : Channel) : (timerStart ch).tmrEn = true := rfl
@[simp] theorem timerStart_cmpEn (ch : Channel) : (timerStart ch).cmpEn = ch.cmpEn := rfl
@[simp] theorem timerStart_cmpDone (ch : Channel) : (timerStart ch).cmpDone = false := rfl
@[simp] theorem timerStart_per (ch : Channel) : (timerStart ch).per = ch.per := rfl
@[simp] theorem timerStart_cc (ch : Channel) : (timerStart ch).cc = ch.cc := rfl
@[simp] theorem timerStart_inv (ch : Channel) : (timerStart ch).inv = ch.inv := rfl
@[simp] theorem timerStart_perB (ch : Channel) : (timerStart ch).perB = ch.perB := rfl
@[simp] theorem timerStart_ccB (ch : Channel) : (timerStart ch).ccB = ch.ccB := rfl
@[simp] theorem timerStart_invB (ch : Channel) : (timerStart ch).invB = ch.invB := rfl
@[simp] theorem timerStart_tmrOut (ch : Channel) : (timerStart ch).tmrOut = waveLevel ch.per ch.cc ch.inv 0 := rfl

@[simp] theorem latch_tmrEn (ch : Channel) : (latch ch).tmrEn = ch.tmrEn := rfl
@[simp] theorem latch_cmpEn (ch : Channel) : (latch ch).cmpEn = ch.cmpEn := rfl
@[simp] theorem latch_cmpDone (ch : Channel) : (latch ch).cmpDone = false := rfl
@[simp] theorem latch_per (ch : Channel) : (latch ch).per = ch.perB := rfl
@[simp] theorem latch_cc (ch : Channel) : (latch ch).cc = ch.ccB := rfl
@[simp] theorem latch_inv (ch : Channel) : (latch ch).inv = ch.invB := rfl
@[simp] theorem latch_perB (ch : Channel) : (latch ch).perB = ch.perB := rfl
@[simp] theorem latch_ccB (ch : Channel) : (latch ch).ccB = ch.ccB := rfl
@[simp] theorem latch_invB (ch : Channel) : (latch ch).invB = ch.invB := rfl
@[simp] theorem latch_tmrOut (ch : Channel) : (latch ch).tmrOut = waveLevel ch.perB ch.ccB ch.invB 0 := rfl

end Sys2Proof.Machine
end

