-- ==== Sys2Proof/Laws/Ops.lean ====
section
/-! SUPPORT. For each shared operation, what it can do, said once. -/

namespace Sys2Proof.Machine

open Sys2Proof

/-! ### State codes and counters -/

@[simp] theorem UnitState.ofCode_code (u : UnitState) : UnitState.ofCode u.code = some u := by
  cases u <;> rfl

/-- The one value of a state register without a meaning is 3 (R45). -/
theorem UnitState.ofCode_eq_none_iff (r : BitVec 2) : UnitState.ofCode r = none ↔ r = 3#2 := by
  revert r; decide

theorem UnitState.ofCode_eq_some_iff (r : BitVec 2) (u : UnitState) : UnitState.ofCode r = some u ↔ r = u.code := by
  cases u <;> (revert r; decide)

theorem UnitState.code_injective {u v : UnitState} (h : u.code = v.code) : u = v := by
  cases u <;> cases v <;> first | rfl | (exact absurd h (by decide))

/-! ### The RX unit -/

/-- Everything the classifier can do (R143, R150). -/
theorem classify_cases {c : Config} {w : PulseWidth} {rx rx' : RxContext} (h : classify c w rx = .ok rx') :
    (isMarker c w = true ∧ rx' = { rx with bitIndex := 0, state := UnitState.run.code, frame := 0 }) ∨
    (isMarker c w = false ∧ rx.state = UnitState.run.code ∧ isTail c w rx.bitIndex = true ∧
      rx' = { rx with done := true, state := UnitState.idle.code }) ∨
    (isMarker c w = false ∧ rx.state = UnitState.run.code ∧ isTail c w rx.bitIndex = false ∧
      rx' = { rx with frame := shiftIn rx.frame (isOne c w), bitIndex := satInc c rx.bitIndex }) ∨
    (isMarker c w = false ∧ (rx.state = UnitState.idle.code ∨ rx.state = UnitState.stop.code) ∧ rx' = rx) := by
  unfold classify at h
  cases hm : isMarker c w with
  | true => simp only [hm, if_true, Except.ok.injEq] at h; exact .inl ⟨rfl, h.symm⟩
  | false =>
    simp only [hm, Bool.false_eq_true, if_false] at h
    cases hs : UnitState.ofCode rx.state with
    | none => simp [hs] at h
    | some u =>
      have hc := (UnitState.ofCode_eq_some_iff _ _).1 hs
      cases u with
      | idle => simp only [hs, Except.ok.injEq] at h; exact .inr (.inr (.inr ⟨rfl, .inl hc, h.symm⟩))
      | stop => simp only [hs, Except.ok.injEq] at h; exact .inr (.inr (.inr ⟨rfl, .inr hc, h.symm⟩))
      | run =>
        cases ht : isTail c w rx.bitIndex with
        | true => simp [hs, ht] at h; exact .inr (.inl ⟨rfl, hc, rfl, h.symm⟩)
        | false => simp [hs, ht] at h; exact .inr (.inr (.inl ⟨rfl, hc, rfl, h.symm⟩))

/-- The classifier's one stop: a non-marker with the reserved state value (R45). -/
theorem classify_error_iff {c : Config} {w : PulseWidth} {rx : RxContext} {e : Fault} :
    classify c w rx = .error e ↔ isMarker c w = false ∧ rx.state = 3#2 ∧ e = .reservedRxState := by
  unfold classify
  cases hm : isMarker c w with
  | true => simp
  | false =>
    cases hs : UnitState.ofCode rx.state with
    | none => simp [(UnitState.ofCode_eq_none_iff _).1 hs, eq_comm]
    | some u =>
      have hc := (UnitState.ofCode_eq_some_iff _ _).1 hs
      have h3 : rx.state ≠ 3#2 := by rw [hc]; cases u <;> decide
      cases u with
      | run => simp only [Bool.false_eq_true, if_false, h3, false_and, and_false, iff_false]; split <;> simp
      | idle => simp only [Bool.false_eq_true, if_false, h3, false_and, and_false, iff_false]; simp
      | stop => simp only [Bool.false_eq_true, if_false, h3, false_and, and_false, iff_false]; simp

/-- A falling edge records its time and, where it exceeds a valid rise, is classified (R142). -/
theorem recordFall_eq (c : Config) (t : Timestamp) (rx : RxContext) :
    recordFall c t rx =
      if rx.riseValid && fallExceedsRise c (timestampDiff c t rx.lastRise) then
        classify c (lowBits c.pwW (timestampDiff c t rx.lastRise)) { rx with lastFall := lowBits c.tsW t }
      else .ok { rx with lastFall := lowBits c.tsW t } := rfl

/-- An RX operation that ends in a next state wrote the RX context and the response, and nothing else. -/
theorem finishRx_eq_next_iff {s t : State} {r : Except Fault RxContext} :
    finishRx s r = .next t ↔ ∃ rx, r = .ok rx ∧ t = (s.setRx rx).answer (.ok .nothing) := by
  cases r <;> simp [finishRx, returnValue, eq_comm]

/-! ### The converters -/

/-- What exponent the converters use (R205 to R207). -/
theorem converterExponent_eq (c : Config) (e : Byte) :
    converterExponent c e =
      if e.toNat ≤ c.expMax then some e.toNat
      else match c.expPolicy with
        | .reject => none
        | .clamp => some c.expMax := rfl

/-! ### The clock -/

/-- Letting the clock run writes the time and, of the channel, the output level only. -/
theorem advanceTo_eq (time : Nat) (s : State) :
    (s.advanceTo time).cfg = s.cfg ∧ (s.advanceTo time).rx = s.rx ∧ (s.advanceTo time).tx = s.tx ∧
    (s.advanceTo time).now = max s.now time ∧ (s.advanceTo time).periodStart = s.periodStart ∧
    (s.advanceTo time).loopback = s.loopback ∧ (s.advanceTo time).response = s.response ∧
    (s.advanceTo time).pending = s.pending ∧
    (s.advanceTo time).ch = { s.ch with tmrOut := (s.advanceTo time).ch.tmrOut } := by
  unfold State.advanceTo
  split <;> simp

@[simp] theorem advanceTo_cfg (time : Nat) (s : State) : (s.advanceTo time).cfg = s.cfg := (advanceTo_eq time s).1
@[simp] theorem advanceTo_rx (time : Nat) (s : State) : (s.advanceTo time).rx = s.rx := (advanceTo_eq time s).2.1
@[simp] theorem advanceTo_tx (time : Nat) (s : State) : (s.advanceTo time).tx = s.tx := (advanceTo_eq time s).2.2.1
@[simp] theorem advanceTo_now (time : Nat) (s : State) : (s.advanceTo time).now = max s.now time :=
  (advanceTo_eq time s).2.2.2.1
@[simp] theorem advanceTo_periodStart (time : Nat) (s : State) : (s.advanceTo time).periodStart = s.periodStart :=
  (advanceTo_eq time s).2.2.2.2.1
@[simp] theorem advanceTo_loopback (time : Nat) (s : State) : (s.advanceTo time).loopback = s.loopback :=
  (advanceTo_eq time s).2.2.2.2.2.1
@[simp] theorem advanceTo_response (time : Nat) (s : State) : (s.advanceTo time).response = s.response :=
  (advanceTo_eq time s).2.2.2.2.2.2.1

@[simp] theorem advanceTo_pending (time : Nat) (s : State) : (s.advanceTo time).pending = s.pending :=
  (advanceTo_eq time s).2.2.2.2.2.2.2.1

/-- Letting the clock run of a looped-back line adds the change of its level, at `CC` (R314, R320). -/
theorem advanceTo_edges (time : Nat) (s : State) :
    (s.advanceTo time).edges = s.edges ++ (if s.loopback then
      levelChange s.ch.tmrOut (s.advanceTo time).ch.tmrOut (s.periodStart + s.ch.cc.toNat) else []) := by
  unfold State.advanceTo
  split <;> simp

/-- While the channel runs, the line follows the waveform (R314). -/
theorem advanceTo_ch_running (time : Nat) (s : State) (h : s.ch.tmrEn = true) :
    (s.advanceTo time).ch =
      { s.ch with tmrOut := waveLevel s.ch.per s.ch.cc s.ch.inv (max s.now time - s.periodStart) } := by
  simp [State.advanceTo, h]

/-- While the channel is stopped, only the time changes. -/
theorem advanceTo_stopped (time : Nat) (s : State) (h : s.ch.tmrEn = false) :
    s.advanceTo time = { s with now := max s.now time } := by
  simp [State.advanceTo, h]

/-! ### The channel's events -/

/-- The channel's next event, in terms of its registers (R318). -/
theorem channelNext_eq_some_iff (ch : Channel) (i : Instr) :
    channelNext ch = some i ↔
      ch.tmrEn = true ∧ ((compareDue ch = true ∧ i = .txCmp) ∨ (compareDue ch = false ∧ i = .txOvf)) := by
  unfold channelNext
  cases ch.tmrEn <;> cases compareDue ch <;> simp [eq_comm]

/-- The compare event is due only while the channel runs. -/
theorem compareDue_running {ch : Channel} (h : compareDue ch = true) : ch.tmrEn = true := by
  unfold compareDue at h
  cases hc : ch.tmrEn with
  | true => rfl
  | false => simp [hc] at h

/-- Everything the overflow event can do (R254). -/
theorem overflow_cases (c : Config) (tx : TxContext) (ch : Channel) :
    let n := satInc c tx.bitIndex
    (n = 0 ∧ overflow c tx ch =
      ({ tx with bitIndex := n, invert := !tx.invert }, { ch with invB := !tx.invert, perB := timerWord c c.dataPer })) ∨
    (n = -1 ∧ overflow c tx ch = ({ tx with bitIndex := n }, { ch with invB := tx.invert })) ∨
    (n ≠ 0 ∧ n ≠ -1 ∧ n = c.dataBits ∧
      overflow c tx ch = ({ tx with bitIndex := n }, { ch with perB := timerWord c c.tailPer })) ∨
    (n ≠ 0 ∧ n ≠ -1 ∧ n ≠ c.dataBits ∧ n = c.dataBits + c.tailBits ∧
      overflow c tx ch = ({ tx with bitIndex := n, state := UnitState.stop.code }, timerDisable ch)) ∨
    (n ≠ 0 ∧ n ≠ -1 ∧ n ≠ c.dataBits ∧ n ≠ c.dataBits + c.tailBits ∧
      overflow c tx ch = ({ tx with bitIndex := n }, ch)) := by
  intro n
  by_cases h₀ : n = 0
  · exact .inl ⟨h₀, by simp [overflow, n] at h₀ ⊢; simp [h₀]⟩
  by_cases h₁ : n = -1
  · exact .inr (.inl ⟨h₁, by simp [overflow, n] at h₁ ⊢; simp [h₁]⟩)
  by_cases h₂ : n = c.dataBits
  · exact .inr (.inr (.inl ⟨h₀, h₁, h₂, by
      simp only [overflow, n] at *; rw [if_neg h₀, if_neg h₁, if_pos h₂]⟩))
  by_cases h₃ : n = c.dataBits + c.tailBits
  · exact .inr (.inr (.inr (.inl ⟨h₀, h₁, h₂, h₃, by
      simp only [overflow, n] at *; rw [if_neg h₀, if_neg h₁, if_neg h₂, if_pos h₃]⟩)))
  · exact .inr (.inr (.inr (.inr ⟨h₀, h₁, h₂, h₃, by simp only [overflow, n] at *; simp [h₀, h₁, h₂, h₃]⟩)))

/-- The compare event writes `CC_B` only (R255). -/
theorem compareLoad_eq (c : Config) (tx : TxContext) (ch : Channel) :
    compareLoad c tx ch = { ch with ccB := (compareLoad c tx ch).ccB } := by
  unfold compareLoad
  dsimp only
  split
  · rfl
  · split <;> rfl

@[simp] theorem compareLoad_tmrOut (c : Config) (tx : TxContext) (ch : Channel) :
    (compareLoad c tx ch).tmrOut = ch.tmrOut := by rw [compareLoad_eq]

/-! ### Steps -/

/-- With nothing pending and no transition on its way, a step is the channel's. -/
theorem step_of_none_pending {s : State} (h : reservedState s = none) (hp : s.pending = []) (he : s.edges = []) :
    step s = channelStep s := by
  simp [step, takeStep, h, hp, idleStep, he]

/-- With nothing pending and a transition on its way, a step delivers the oldest one. -/
theorem step_of_edge {s : State} {e : LineEdge} {more : List LineEdge} (h : reservedState s = none)
    (hp : s.pending = []) (he : s.edges = e :: more) :
    step s = exec (edgeInstr e.dir e.time) { s with edges := more } := by
  simp [step, takeStep, h, hp, idleStep, deliverEdge, he]

/-- With a turn pending, a step takes it. -/
theorem step_of_pending {s : State} {t : Turn} {rest : List Turn} (h : reservedState s = none)
    (hp : s.pending = t :: rest) : step s = runTurn t { s with pending := rest } := by
  simp only [step, takeStep, h, hp]

/-- Delivering the oldest transition runs its edge event on the state without it (R308 (d)). -/
theorem deliverEdge_eq {s : State} {e : LineEdge} {more : List LineEdge} (he : s.edges = e :: more) :
    deliverEdge s = exec (edgeInstr e.dir e.time) { s with edges := more } := by
  simp only [deliverEdge, he]

/-- With no transition on its way no turn waits. -/
theorem turnWaits_of_no_edges (t : Turn) {s : State} (he : s.edges = []) : turnWaits t s = false := by
  simp only [turnWaits, he, List.isEmpty_nil, Bool.not_true, Bool.false_and]

/-- A turn that need not wait is taken. -/
theorem step_of_ready {s : State} {t : Turn} {rest : List Turn} (h : reservedState s = none)
    (hp : s.pending = t :: rest) (hw : turnWaits t { s with pending := rest } = false) :
    step s = takeTurn t { s with pending := rest } := by
  simp [step_of_pending h hp, runTurn, hw]

/-- Before a turn that waits, the oldest transition is delivered, and the turns stay as they are (R308 (d), R320). -/
theorem step_of_waiting {s : State} {t : Turn} {rest : List Turn} {e : LineEdge} {more : List LineEdge}
    (h : reservedState s = none) (hp : s.pending = t :: rest) (he : s.edges = e :: more)
    (hw : turnWaits t { s with pending := rest } = true) :
    step s = exec (edgeInstr e.dir e.time) { s with edges := more } := by
  rw [step_of_pending h hp, runTurn, if_pos hw, deliverEdge_eq (more := more) (e := e) (by exact he)]
  simp only [State.asksAgain, ← hp]

/-- A step that finds a reserved state value faults. -/
theorem step_of_reserved {s : State} {e : Fault} (h : reservedState s = some e) : step s = .fault e := by
  simp only [step, takeStep, h]

/-- The state registers are legal exactly where neither holds 3 (R45). -/
theorem reservedState_eq_none_iff (s : State) : reservedState s = none ↔ s.rx.state ≠ 3#2 ∧ s.tx.state ≠ 3#2 := by
  unfold reservedState
  cases hr : UnitState.ofCode s.rx.state with
  | none => simp [(UnitState.ofCode_eq_none_iff _).1 hr]
  | some u =>
    have h3 : s.rx.state ≠ 3#2 := fun e => by simp [(UnitState.ofCode_eq_none_iff _).2 e] at hr
    cases ht : UnitState.ofCode s.tx.state with
    | none => simp [(UnitState.ofCode_eq_none_iff _).1 ht]
    | some v =>
      have h3' : s.tx.state ≠ 3#2 := fun e => by simp [(UnitState.ofCode_eq_none_iff _).2 e] at ht
      simp [h3, h3']

end Sys2Proof.Machine
end

