-- ==== Sys2Proof/Laws/PerInstr.lean ====
section
/-! SUPPORT. Facts stated once for each constructor of `Instr`. -/

namespace Sys2Proof.Laws.EncodedWord

open Sys2Proof

/-- The encoder's word is a command word: its opcode is legal and its length is its format's (R106, R110). -/
def Statement (i : Instr) : Prop :=
  isCommandWord (encode i) = true

theorem rxRise (t : Timestamp) : Statement (.rxRise t) := by
  simp [Statement, isCommandWord, encode, opcodeOf, operandsOf, formatOf, operandBytes]
theorem rxFall (t : Timestamp) : Statement (.rxFall t) := by
  simp [Statement, isCommandWord, encode, opcodeOf, operandsOf, formatOf, operandBytes]
theorem rxPulse (w : PulseWidth) : Statement (.rxPulse w) := by
  simp [Statement, isCommandWord, encode, opcodeOf, operandsOf, formatOf, operandBytes]
theorem rxStatus : Statement .rxStatus := rfl
theorem rxFrame : Statement .rxFrame := rfl
theorem rxAck : Statement .rxAck := rfl
theorem lyBit (f : Frame) (j : Byte) : Statement (.lyBit f j) := by
  simp [Statement, isCommandWord, encode, opcodeOf, operandsOf, formatOf, operandBytes]
theorem lyByte (f : Frame) (j : Byte) : Statement (.lyByte f j) := by
  simp [Statement, isCommandWord, encode, opcodeOf, operandsOf, formatOf, operandBytes]
theorem lyDecode (f : Frame) : Statement (.lyDecode f) := by
  simp [Statement, isCommandWord, encode, opcodeOf, operandsOf, formatOf, operandBytes]
theorem lyCsum (f : Frame) : Statement (.lyCsum f) := by
  simp [Statement, isCommandWord, encode, opcodeOf, operandsOf, formatOf, operandBytes]
theorem lyCurrent (f : Frame) : Statement (.lyCurrent f) := by
  simp [Statement, isCommandWord, encode, opcodeOf, operandsOf, formatOf, operandBytes]
theorem lyPower (f : Frame) (v : Volts) : Statement (.lyPower f v) := by
  simp [Statement, isCommandWord, encode, opcodeOf, operandsOf, formatOf, operandBytes]
theorem txInit : Statement .txInit := rfl
theorem txSend (f : Frame) : Statement (.txSend f) := by
  simp [Statement, isCommandWord, encode, opcodeOf, operandsOf, formatOf, operandBytes]
theorem txStop : Statement .txStop := rfl
theorem txOvf : Statement .txOvf := rfl
theorem txCmp : Statement .txCmp := rfl

end Sys2Proof.Laws.EncodedWord
end

