-- ==== Sys2Proof/Tests/Slice0.lean ====
section
/-! SUPPORT. Named tests. The expected values are those of `95_test_vectors.md` (vector numbers in the comments) or are
worked by hand from the encoding tables of `30_encoding.md`. The last part shows, for every obligation with hypotheses,
a concrete state and operands that meet them. -/

namespace Sys2Proof.Tests

open Sys2Proof Sys2Proof.Machine

/-- The running frame of `95_test_vectors.md`. -/
def F0 : Frame := 0x0F1234D01A2B036D

/-- The reset state with the RX registers of V3's columns. -/
def rxIn (state : BitVec 2) (bitIndex : Int) (frame : Frame) (done : Bool) : State :=
  { State.reset with rx := { RxContext.reset with state := state, bitIndex := bitIndex, frame := frame, done := done } }

/-- The reset state with a rising edge recorded at `t`. -/
def rxAfterRise (t : Timestamp) : State :=
  { State.reset with rx := { RxContext.reset with state := 1, lastRise := t, riseValid := true } }

/-- The reset state with a TX state, index, invert flag and frame F0, the channel stopped. -/
def txIn (state : BitVec 2) (bitIndex : Int) (invert : Bool) : State :=
  { State.reset with tx := { frame := F0, bitIndex := bitIndex, state := state, invert := invert }
                     ch := { Channel.reset Config.nominal with invB := invert } }

/-- A running channel in RUN, in a data period of 198 µs that began at 1000, at `now`. -/
def running (bitIndex : Int) (cc : Micros) (cmpDone : Bool) (now : Nat) : State :=
  { State.reset with
    tx := { frame := F0, bitIndex := bitIndex, state := 1, invert := true }
    ch := { tmrEn := true, cmpEn := true, cmpDone := cmpDone, per := 198, cc := cc, inv := true, perB := 198, ccB := cc,
            invB := true, tmrOut := waveLevel 198 cc true (now - 1000) }
    now := now
    periodStart := 1000 }

/-- The tail period of F0 at its start, time 13736 of V7. -/
def tailPeriod : State :=
  { State.reset with
    tx := { frame := F0, bitIndex := 64, state := 1, invert := true }
    ch := { tmrEn := true, cmpEn := true, cmpDone := false, per := 109, cc := 89, inv := true, perB := 109, ccB := 89,
            invB := true, tmrOut := false }
    now := 13736
    periodStart := 13736 }

/-- A state with its next turns. -/
def withTurns (ts : List Turn) (s : State) : State :=
  { s with pending := ts }

/-- A state with the loopback wired. -/
def wired (s : State) : State :=
  { s with loopback := true }

/-- The next state of an outcome, if it is one. -/
def next? : Host.Outcome State Fault Refusal → Option State
  | .next s => some s
  | .fault _ => none
  | .refused _ => none

/-- The fault of an outcome, if it is one. -/
def fault? : Host.Outcome State Fault Refusal → Option Fault
  | .next _ => none
  | .fault e => some e
  | .refused _ => none

/-- The refusal of an outcome, if it is one. -/
def refusal? : Host.Outcome State Fault Refusal → Option Refusal
  | .next _ => none
  | .fault _ => none
  | .refused r => some r

/-- The response of an outcome's next state. -/
def answer? (o : Host.Outcome State Fault Refusal) : Option Response :=
  (next? o).map (·.response)

/-- The RX columns of V3 of an outcome's next state: state, bit index, frame, done. -/
def rx? (o : Host.Outcome State Fault Refusal) : Option (BitVec 2 × Int × Frame × Bool) :=
  (next? o).map fun s => (s.rx.state, s.rx.bitIndex, s.rx.frame, s.rx.done)

/-! ### Ill-formed terms are refused -/

theorem test_nominal_wellFormed : Config.nominal.WellFormed := by decide
theorem test_refuses_on_outside_period : ¬{ Config.nominal with markerOn := 532 }.WellFormed := by decide
theorem test_refuses_zero_on : ¬{ Config.nominal with tailOn := 0 }.OnInsidePeriod := by decide
theorem test_refuses_short_marker : ¬{ Config.nominal with markerOn := 400 }.MarkerIsMarker := by decide
theorem test_refuses_narrow_one : ¬{ Config.nominal with data1On := 98 }.OneIsOne := by decide
theorem test_refuses_wide_zero : ¬{ Config.nominal with data0On := 97 }.ZeroIsZero := by decide
theorem test_refuses_wide_tail : ¬{ Config.nominal with tailOn := 69 }.TailIsTail := by decide
theorem test_refuses_marker_as_tail : ¬{ Config.nominal with tailPer := 500, tailMax := 450 }.TailIsNoMarker := by decide
theorem test_admits_wide_tail_bound : { Config.nominal with tailMax := 300 }.WellFormed := by decide
theorem test_refuses_short_timestamps : ¬{ Config.nominal with tsW := 17 }.WidthRange := by decide
theorem test_refuses_narrow_timer : ¬{ Config.nominal with tmrW := 9 }.OnInsidePeriod := by decide
theorem test_admits_other_widths :
    { Config.nominal with tsW := 16, pwW := 16, biW := 12, biMax := 2047, tmrW := 10, vW := 8, fracBits := 20 }.WellFormed := by
  decide
theorem test_refuses_other_frame_shape : ¬{ Config.nominal with dataBits := 65 }.FrameShape := by decide
theorem test_refuses_wide_counter : ¬{ Config.nominal with biMax := 128 }.CounterRange := by decide
theorem test_refuses_wide_exponent : ¬{ Config.nominal with expMax := 16 }.ExponentRange := by decide

theorem test_word_refuses_illegal_opcode : isCommandWord [0x07] = false := by decide
theorem test_word_refuses_truncated : isCommandWord [0x03, 0x00, 0x00, 0x01] = false := by decide
theorem test_word_refuses_overlong : isCommandWord [0x04, 0x00] = false := by decide
theorem test_word_refuses_empty : isCommandWord [] = false := by decide
theorem test_word_accepts_pulse : isCommandWord [0x03, 0x00, 0x00, 0x01, 0xC2] = true := by decide

/-! ### Decoding: one word for every constructor, from the encoding columns of P1 to P4 and V5 -/

theorem test_decode_rise : decodeTableWord 40 0xD8FEFFFF01 = some (.rxRise 4294967000) := by decide
theorem test_decode_fall : decodeTableWord 40 0xBB01000002 = some (.rxFall 443) := by decide
theorem test_decode_pulse : decodeTableWord 40 0xC201000003 = some (.rxPulse 450) := by decide
theorem test_decode_status : decodeTableWord 8 0x04 = some .rxStatus := by decide
theorem test_decode_frame : decodeTableWord 8 0x05 = some .rxFrame := by decide
theorem test_decode_ack : decodeTableWord 8 0x06 = some .rxAck := by decide
theorem test_decode_bit : decodeTableWord 80 0x406D032B1AD034120F11 = some (.lyBit F0 64) := by decide
theorem test_decode_byte : decodeTableWord 80 0x036D032B1AD034120F12 = some (.lyByte F0 3) := by decide
theorem test_decode_decode : decodeTableWord 72 0x6D032B1AD034120F13 = some (.lyDecode F0) := by decide
theorem test_decode_csum : decodeTableWord 72 0x6D032B1AD034120F14 = some (.lyCsum F0) := by decide
theorem test_decode_current : decodeTableWord 72 0x6D032B1AD034120F15 = some (.lyCurrent F0) := by decide
theorem test_decode_power : decodeTableWord 88 0xF0006D032B1AD034120F16 = some (.lyPower F0 240) := by decide
theorem test_decode_init : decodeTableWord 8 0x21 = some .txInit := by decide
theorem test_decode_send : decodeTableWord 72 0xEFCDAB896745230122 = some (.txSend 0x0123456789ABCDEF) := by decide
theorem test_decode_stop : decodeTableWord 8 0x23 = some .txStop := by decide
theorem test_decode_ovf : decodeTableWord 8 0x24 = some .txOvf := by decide
theorem test_decode_cmp : decodeTableWord 8 0x25 = some .txCmp := by decide
/-- Bits the table does not give are 0: an opcode byte alone is the operation with zero operands. -/
theorem test_decode_opcode_only : decodeTableWord 8 0x16 = some (.lyPower 0 0) := by decide
theorem test_decode_refuses_illegal : decodeTableWord 8 0x07 = none := by decide
theorem test_decode_names_the_refusal : decode [0x26, 0x00] = .error (.illegalOp 0x26) := rfl
theorem test_decode_leaves_the_rest : decode [0x06, 0x05] = .ok (.rxAck, [0x05]) := rfl

/-- The first step after reset runs the placed word. -/
theorem test_fetch_runs_the_word :
    (next? (step (State.reset.withFetchWord 72 0x6D032B1AD034120F22))).map (·.tx.frame) = some F0 := by decide

/-! ### RX -/

/-- V2.2: a rise at 1000 and a fall at 1150 forward 150, a data 1. -/
theorem test_fall_forwards : rx? (exec (.rxFall 1150) (rxAfterRise 1000)) = some (1, 1, 1, false) := by decide
/-- V2.5: a fall before its rise is stale. -/
theorem test_fall_stale : rx? (exec (.rxFall 450) (rxAfterRise 500)) = some (1, 0, 0, false) := by decide
/-- D3: with a timer of 16 bits the same wrap is at 65536, and a fall half the range later is stale. -/
theorem test_fall_narrow_timer :
    let s := { State.resetIn { Config.nominal with tsW := 16 } with
      rx := { RxContext.reset with state := 1, lastRise := 65436, riseValid := true } }
    rx? (exec (.rxFall 50) s) = some (1, 1, 1, false) ∧ rx? (exec (.rxFall 32668) s) = some (1, 0, 0, false) := by decide
/-- R141's example. -/
theorem test_rise_recorded :
    (next? (exec (.rxRise 1000) State.reset)).map (fun s => (s.rx.lastRise, s.rx.riseValid)) = some (1000, true) := by
  decide
/-- V3.8: 40 is no tail; F0 moves left. -/
theorem test_pulse_40_at_64 :
    rx? (exec (.rxPulse 40) (rxIn 1 64 F0 false)) = some (1, 65, 0x1E2469A0345606DA, false) := by decide
/-- V3.12: the index saturates. -/
theorem test_pulse_saturates : rx? (exec (.rxPulse 150) (rxIn 1 127 1 false)) = some (1, 127, 3, false) := by decide
/-- D6: with 12 bits the index counts on past 127. -/
theorem test_pulse_wide_index :
    rx? (exec (.rxPulse 150) { rxIn 1 127 1 false with cfg := { Config.nominal with biW := 12, biMax := 2047 } }) =
      some (1, 128, 3, false) := by decide
/-- V4.7. -/
theorem test_status_stale_flag : answer? (exec .rxStatus (rxIn 1 1 1 true)) = some (.ok (.status 0x0103)) := by decide
/-- V4.3. -/
theorem test_status_complete : answer? (exec .rxStatus (rxIn 0 64 F0 true)) = some (.ok (.status 0x4001)) := by decide
/-- V4.4. -/
theorem test_frame_read : answer? (exec .rxFrame (rxIn 0 64 F0 true)) = some (.ok (.frame F0)) := by decide
/-- V4.5. -/
theorem test_ack : rx? (exec .rxAck (rxIn 0 64 F0 true)) = some (0, 64, F0, false) := by decide

/-! ### LY -/

/-- V5.2. -/
theorem test_bit_4 : answer? (exec (.lyBit F0 4) State.reset) = some (.ok (.bit 1)) := by decide
/-- V5.4. -/
theorem test_bit_64 : answer? (exec (.lyBit F0 64) State.reset) = some (.rangeError .index 64) := by decide
/-- V5.7. -/
theorem test_byte_3 : answer? (exec (.lyByte F0 3) State.reset) = some (.ok (.byte 0xD0)) := by decide
/-- V5.9. -/
theorem test_byte_8 : answer? (exec (.lyByte F0 8) State.reset) = some (.rangeError .index 8) := by decide
/-- V5's field table, first row. -/
theorem test_decode_fields :
    answer? (exec (.lyDecode F0) State.reset) = some (.ok (.record
      { syncBits := 0x0F, id := 0x1234, pairing := 1, interval := 2, battery := 1, unused := 0, currentRaw := 6699,
        exponent := 3, checksum := 0x6D })) := by decide
/-- V1.9. -/
theorem test_csum_good : answer? (exec (.lyCsum F0) State.reset) = some (.ok (.verdict 1)) := by decide
/-- V5, `0x0F1234D01A2B036C`. -/
theorem test_csum_bad : answer? (exec (.lyCsum 0x0F1234D01A2B036C) State.reset) = some (.ok (.verdict 0)) := by decide
/-- V5.16. -/
theorem test_current_largest :
    answer? (exec (.lyCurrent 0x0F1234D0FFFF0F32) State.reset) = some (.ok (.milliamps 2147450880000)) := by decide
/-- V5.19. -/
theorem test_current_out_of_range :
    answer? (exec (.lyCurrent 0xAA5500FF7FFF1000) State.reset) = some (.rangeError .exponent 16) := by decide
/-- V5.12. -/
theorem test_power_230 : answer? (exec (.lyPower F0 230) State.reset) = some (.ok (.watts 12326160)) := by decide
/-- V5.20. -/
theorem test_power_out_of_range :
    answer? (exec (.lyPower 0xFFFFFFFFFFFFFFFF 240) State.reset) = some (.rangeError .exponent 255) := by decide

/-! ### TX -/

/-- V6.1, from a running channel. -/
theorem test_init :
    (next? (exec .txInit (running 8 55 false 1000))).map (fun s => (s.tx, s.ch)) =
      some (TxContext.reset, Channel.reset Config.nominal) := by decide
/-- V6.2. -/
theorem test_send :
    (next? (exec (.txSend F0) State.reset)).map (fun s => (s.tx.bitIndex, s.tx.state, s.ch.perB, s.ch.tmrOut)) =
      some (-2, 1, 532, true) := by decide
/-- V6.18: the active registers stay those of the interrupted period. -/
theorem test_send_again :
    (next? (exec (.txSend 5) (running 30 55 true 1100))).map (fun s => (s.ch.per, s.ch.cc, s.ch.perB, s.ch.tmrOut)) =
      some (198, 55, 532, false) := by decide
/-- A send over a high line: the line falls before it rises again (R316, R317, R320). -/
theorem test_send_over_high_line :
    (next? (exec (.txSend 5) (wired { running 8 198 false 1100 with
        ch := { (running 8 198 false 1100).ch with tmrOut := true, inv := false } }))).map (·.edges) =
      some [⟨.falling, 1100⟩, ⟨.rising, 1100⟩] := by decide
/-- R308 (b): the consumer's stop may come before the looped-back edge of the same instant, which then still comes. -/
theorem test_stop_before_edge :
    let s := { wired (running 8 55 true 1100) with edges := [⟨.rising, 1055⟩], pending := [.command .consumer [0x23]] }
    (next? (step s)).map (·.edges) = some [⟨.rising, 1055⟩, ⟨.falling, 1100⟩] ∧
    ((next? (step s)).bind fun t => next? (step t)).map (·.rx.lastRise) = some 1055 := by decide
/-- R308 (d): a later transition of the line, and an edge word of any agent, do not overtake the looped-back one. -/
theorem test_edges_keep_their_order :
    let s := { wired State.reset with edges := [⟨.rising, 5⟩] }
    (∀ t ∈ ([.transition .rising 9, .command .edge (encode (.rxRise 9)), .command .harness (encode (.rxRise 9)),
        .command .edge (encode (.rxPulse 9))] : List Turn),
      (next? (step (withTurns [t] s))).map (fun r => (r.rx.lastRise, r.pending)) = some (5, [t])) ∧
    (next? (step (withTurns [.command .harness (encode (.rxPulse 9))] s))).map (·.edges) = some [⟨.rising, 5⟩] := by
  decide
/-- R320: the channel's event as a command word does not let time go by before the transition is delivered; due now, it may
come first. -/
theorem test_timer_word_waits :
    let s := { wired (running 8 55 true 1100) with edges := [⟨.rising, 1055⟩] }
    let w : Turn := .command .timer (encode .txOvf)
    (next? (step (withTurns [w] s))).map (fun r => (r.now, r.edges, r.pending)) = some (1100, [], [w]) ∧
    (next? (step (withTurns [w] { s with now := 1198 }))).map (·.edges) = some [⟨.rising, 1055⟩, ⟨.falling, 1198⟩] := by
  decide
/-- V6.16. -/
theorem test_stop :
    (next? (exec .txStop (running 8 55 true 1100))).map (fun s => (s.tx.state, s.tx.bitIndex, s.ch.tmrEn, s.ch.tmrOut)) =
      some (2, 8, false, false) := by decide
/-- V6.4, in the marker period: the latch follows the loads (V6.19). -/
theorem test_ovf_at_zero :
    (next? (exec .txOvf { running (-1) 130 true 1130 with
        tx := { frame := F0, bitIndex := -1, state := 1, invert := false } })).map
      (fun s => (s.tx.bitIndex, s.tx.invert, s.ch.per, s.ch.inv)) = some (0, true, 198, true) := by decide
/-- V6.8: an injected overflow after the stop. -/
theorem test_ovf_injected :
    (next? (exec .txOvf (txIn 2 65 true))).map (fun s => (s.tx.bitIndex, s.tx.state, s.ch.tmrEn)) =
      some (66, 2, false) := by decide
/-- An overflow injected before its period's compare event moves no time; the new period begins at once. -/
theorem test_ovf_injected_in_period :
    (next? (exec .txOvf (running 8 55 false 1010))).map (fun s => (s.tx.bitIndex, s.now, s.periodStart, s.ch.cmpDone)) =
      some (9, 1010, 1010, false) := by decide
/-- V6.12: bit 4 of F0 is 1. -/
theorem test_cmp_loads : (next? (exec .txCmp (running 3 130 false 1000))).map (fun s => (s.ch.ccB, s.now)) =
    some (55, 1130) := by decide
/-- V6.10: nothing in the propagation period. -/
theorem test_cmp_propagation : (next? (exec .txCmp (txIn 1 (-2) false))).map (·.ch.ccB) = some 512 := by decide

/-! ### Witnesses: the hypotheses of the obligations can be met -/

theorem test_wit_OnlyTheEncodedWordDecodes : decode [0x01, 0xFF, 0xFF, 0xFE, 0xD8] = .ok (.rxRise 4294967000, []) := rfl

/-- Every end of the four ranges, and a state whose next turn is such a word. -/
theorem test_wit_IllegalOpcodeIsRefusedWithoutEffect :
    (∀ op ∈ ([0x00, 0x07, 0x10, 0x17, 0x20, 0x26, 0xFF] : List Byte),
      op.toNat = 0x00 ∨ (0x07 ≤ op.toNat ∧ op.toNat ≤ 0x10) ∨ (0x17 ≤ op.toNat ∧ op.toNat ≤ 0x20) ∨
        (0x26 ≤ op.toNat ∧ op.toNat ≤ 0xFF)) ∧
    reservedState (withTurns [.command .consumer [0x07]] State.reset) = none := by decide

/-- One opcode of each format; a word one byte short, and one of the exact length. -/
theorem test_wit_LengthFollowsFromTheOpcode :
    formatOf 0x04 = some .n ∧ formatOf 0x01 = some .t ∧ formatOf 0x22 = some .f ∧ formatOf 0x11 = some .fi ∧
    formatOf 0x16 = some .fv ∧ ([0, 0, 0] : List Byte).length < operandBytes .t ∧
    operandBytes .t ≤ ([0, 0, 0, 0] : List Byte).length ∧ operandBytes .n ≤ ([] : List Byte).length := by decide

/-- The largest timestamp of the default timer, and of one of 16 bits. -/
theorem test_wit_RiseIsRecorded :
    (4294967295 : Timestamp).toNat < 2 ^ State.reset.cfg.tsW ∧
    (65535 : Timestamp).toNat < 2 ^ (State.resetIn { Config.nominal with tsW := 16 }).cfg.tsW := by decide

/-- The width at both ends of the forwarded range, and just outside it; and no rise at all. -/
theorem test_wit_FallIsMeasuredOrDiscarded :
    (rxAfterRise 1000).cfg.tsW ≤ 32 ∧ (2147483648 : Timestamp).toNat < 2 ^ (rxAfterRise 0).cfg.tsW ∧
    (1 = ((1001 : Timestamp).toNat + 2 ^ 32 - (rxAfterRise 1000).rx.lastRise.toNat) % 2 ^ 32) ∧
    (2 ^ 31 - 1 = ((2147483647 : Timestamp).toNat + 2 ^ 32 - (rxAfterRise 0).rx.lastRise.toNat) % 2 ^ 32) ∧
    (2 ^ 31 = ((2147483648 : Timestamp).toNat + 2 ^ 32 - (rxAfterRise 0).rx.lastRise.toNat) % 2 ^ 32) ∧
    (0 = ((800 : Timestamp).toNat + 2 ^ 32 - (rxAfterRise 800).rx.lastRise.toNat) % 2 ^ 32) ∧
    (rxAfterRise 1000).rx.riseValid = true ∧ (rxAfterRise 1000).rx.state ≠ 3 ∧ State.reset.rx.riseValid = false := by decide

/-- A marker of the least width; a tail at its bounds; a data pulse at its bounds; a pulse outside RUN. -/
theorem test_wit_PulseIsClassified :
    (401 = (401 : PulseWidth).toNat ∧ 401 < 2 ^ State.reset.cfg.pwW ∧ State.reset.cfg.markerMin < 401) ∧
    (39 = (39 : PulseWidth).toNat ∧ 39 < 2 ^ State.reset.cfg.pwW ∧ (rxIn 1 64 F0 false).rx.state = 1 ∧
      39 < (rxIn 1 64 F0 false).cfg.tailMax ∧ (rxIn 1 64 F0 false).cfg.lastIndex < (rxIn 1 64 F0 false).rx.bitIndex) ∧
    ¬((rxIn 1 63 F0 false).cfg.lastIndex < (rxIn 1 63 F0 false).rx.bitIndex) ∧
    ¬(40 < (rxIn 1 64 F0 false).cfg.tailMax) ∧ 400 ≤ State.reset.cfg.markerMin ∧
    (rxIn 1 127 F0 false).cfg.CounterRange ∧ IndexFits (rxIn 1 127 F0 false).cfg (rxIn 1 127 F0 false).rx.bitIndex ∧
    State.reset.rx.state = 0 ∧ (rxIn 2 5 7 false).rx.state = 2 := by decide

theorem test_wit_ThresholdsAreStrict :
    (rxIn 1 64 F0 false).cfg = Config.nominal ∧ (rxIn 1 64 F0 false).rx.state = 1 ∧
    (rxIn 1 64 F0 false).rx.bitIndex = 64 ∧ (rxIn 1 63 1 false).rx.state = 1 ∧ (rxIn 1 63 1 false).rx.bitIndex = 63 ∧
    (rxIn 2 5 7 false).rx.state = 2 ∧ (39 : PulseWidth).toNat < 40 := by decide

theorem test_wit_MarkerWinsInEveryState :
    (401 : PulseWidth).toNat < 2 ^ (rxIn 0 64 F0 true).cfg.pwW ∧
    (rxIn 0 64 F0 true).cfg.markerMin < (401 : PulseWidth).toNat := by decide

/-- V2.3: the pulse that runs across the wrap, and the longest pulse. -/
theorem test_wit_HighPulseIsMeasuredAcrossTheWrap :
    State.reset.cfg.tsW ≤ 32 ∧ 0 < 150 ∧ 150 < 2 ^ (State.reset.cfg.tsW - 1) ∧ 2 ^ 31 - 1 < 2 ^ (State.reset.cfg.tsW - 1) := by
  decide

theorem test_wit_ReservedStateValueFaults :
    (rxIn 3 0 0 false).rx.state = 3 ∧ (txIn 3 0 false).tx.state = 3 ∧
    (400 : PulseWidth).toNat ≤ (rxIn 3 0 0 false).cfg.markerMin ∧
    (next? (exec (.rxPulse 512) (rxIn 0 0 0 false))).isSome ∧
    (next? (step (withTurns [.timer] State.reset))).isSome := by decide

/-- The index at both ends of an `s8`. -/
theorem test_wit_StatusWordIsLaidOut :
    (rxIn 1 (-128) 0 false).rx.state ≠ 3 ∧ -128 ≤ (rxIn 1 (-128) 0 false).rx.bitIndex ∧
    (rxIn 1 (-128) 0 false).rx.bitIndex < 128 ∧ (rxIn 0 127 0 true).rx.state ≠ 3 ∧
    -128 ≤ (rxIn 0 127 0 true).rx.bitIndex ∧ (rxIn 0 127 0 true).rx.bitIndex < 128 := by decide

/-- A data pulse and a stale edge after a completion; and in STOP. -/
theorem test_wit_CompletedFrameStandsUntilMarker :
    (rxIn 0 64 F0 true).rx.state = 0 ∧ bringsMarker (.rxPulse 400) (rxIn 0 64 F0 true) = false ∧
    (next? (exec (.rxPulse 400) (rxIn 0 64 F0 true))).isSome ∧
    (rxIn 2 5 7 false).rx.state = 2 ∧ bringsMarker (.rxFall 3) (rxIn 2 5 7 false) = false ∧
    (next? (exec (.rxFall 3) (rxIn 2 5 7 false))).isSome := by decide

/-- A tail at the least index, and RX.ACK. -/
theorem test_wit_OnlyATailEndsReception :
    (rxIn 1 64 F0 false).rx.state = 1 ∧ rx? (exec (.rxPulse 39) (rxIn 1 64 F0 false)) = some (0, 64, F0, true) ∧
    rx? (exec .rxAck (rxIn 0 64 F0 true)) = some (0, 64, F0, false) := by decide

theorem test_wit_ReceptionReproducesTheFrame : (rxIn 1 20 0xABCDE true).cfg = Config.nominal := by decide

theorem test_wit_LayoutOperationsArePure : isLy (.lyPower F0 240) = true ∧ State.reset.cfg = Config.nominal := by decide

theorem test_wit_LayoutBit : (63 : Byte).toNat ≤ 63 ∧ 63 < (64 : Byte).toNat := by decide

theorem test_wit_LayoutByte : (7 : Byte).toNat ≤ 7 ∧ 7 < (8 : Byte).toNat := by decide

/-- The converters' hypotheses, with the exponent field at 15 and at 16. -/
theorem test_wit_LayoutCurrent_LayoutPower :
    State.reset.cfg.expMax = 15 ∧ State.reset.cfg.expPolicy = .reject ∧ State.reset.cfg.fracBits = 15 ∧
    (65535 : Volts).toNat < 2 ^ State.reset.cfg.vW ∧
    (0x0F1234D0FFFF0F32 : Frame).toNat / 256 % 256 ≤ 15 ∧ 15 < (0xAA5500FF7FFF1000 : Frame).toNat / 256 % 256 := by
  decide

theorem test_wit_PowerIsCurrentTimesVoltage :
    State.reset.cfg = Config.nominal ∧ (frameFields 0x0F1234D0FFFF0F32).exponent.toNat ≤ 15 := by decide

theorem test_wit_ExponentPolicyRejects :
    State.reset.cfg = Config.nominal ∧ 16 ≤ (frameFields 0xAA5500FF7FFF1000).exponent.toNat := by decide

/-- An exponent field above 15 with the policy CLAMP, one of 15 with REJECT; and 17 fractional bits more. -/
theorem test_wit_ClampPolicyConvertsAtTheMaximum :
    (State.resetIn { Config.nominal with expPolicy := .clamp }).cfg.expMax = 15 ∧
    (State.resetIn { Config.nominal with expPolicy := .clamp }).cfg.expPolicy = .clamp ∧
    (State.resetIn { Config.nominal with expPolicy := .clamp }).cfg.fracBits = 15 + 0 ∧
    (State.resetIn { Config.nominal with fracBits := 32 }).cfg.fracBits = 15 + 17 ∧
    (15 = if (0xAA5500FF7FFF1000 : Frame).toNat / 256 % 256 ≤ 15 then 16 else 15) ∧
    (0x0F1234D0FFFF0F32 : Frame).toNat / 256 % 256 ≤ 15 ∧
    (15 = if (0x0F1234D0FFFF0F32 : Frame).toNat / 256 % 256 ≤ 15 then (0x0F1234D0FFFF0F32 : Frame).toNat / 256 % 256
      else 15) := by decide

/-- Both alternatives: no loopback, and a line that is low. -/
theorem test_wit_InitSetsTheTransmitter_StopDisablesTheChannel :
    (running 8 55 true 1100).cfg.TimesFit ∧ (running 8 55 true 1100).loopback = false ∧
    (wired (running 8 55 false 1000)).ch.tmrOut = false := by decide

theorem test_wit_SendStartsTheTransmission :
    State.reset.cfg.txStartIndex = -2 ∧ 2 ≤ State.reset.cfg.biW ∧ State.reset.cfg.TimesFit ∧
    State.reset.loopback = false := by decide

theorem test_wit_SecondSendReplacesTheFirst :
    ((next? (exec (.txSend 1) State.reset)).bind fun s => next? (exec (.txSend 2) s)).isSome ∧
    (next? (exec (.txSend 2) State.reset)).isSome ∧ State.reset.loopback = false := by decide

/-- The index before each of the tested values, and at saturation; the channel running and stopped. -/
theorem test_wit_OverflowActsByIndex :
    State.reset.cfg.WellFormed ∧ IndexFits State.reset.cfg (-2) ∧ IndexFits State.reset.cfg 127 ∧
    (-1 : Int) = min ((txIn 1 (-2) false).tx.bitIndex + 1) (txIn 1 (-2) false).cfg.biMax ∧
    (0 : Int) = min ((txIn 1 (-1) false).tx.bitIndex + 1) (txIn 1 (-1) false).cfg.biMax ∧
    (64 : Int) = min ((running 63 55 true 1198).tx.bitIndex + 1) (running 63 55 true 1198).cfg.biMax ∧
    (65 : Int) = min (tailPeriod.tx.bitIndex + 1) tailPeriod.cfg.biMax ∧
    (127 : Int) = min ((txIn 2 127 false).tx.bitIndex + 1) (txIn 2 127 false).cfg.biMax ∧
    (next? (exec .txOvf (running 63 55 true 1198))).map (·.ch.tmrEn) = some true ∧
    (next? (exec .txOvf tailPeriod)).map (·.ch.tmrEn) = some false ∧ (txIn 2 65 true).ch.tmrEn = false := by decide

theorem test_wit_BoundaryLatchesAfterOverflow :
    (running 63 55 true 1198).ch.tmrEn = true ∧ compareDue (running 63 55 true 1198).ch = false ∧
    (next? (exec .txOvf (running 63 55 true 1198))).map (·.ch.tmrEn) = some true ∧
    compareDue (running 8 55 false 1010).ch = true ∧ (next? (exec .txOvf (running 8 55 false 1010))).isSome ∧
    (txIn 2 65 true).ch.tmrEn = false ∧ (next? (exec .txOvf (txIn 2 65 true))).isSome := by decide

/-- The index before 64, at both ends of the data range, and in the propagation and the tail period. -/
theorem test_wit_CompareLoadsTheNextWidth :
    State.reset.cfg.dataBits = 64 ∧ State.reset.cfg.TimesFit ∧ (64 : Int) = (running 63 55 false 1000).tx.bitIndex + 1 ∧
    (0 : Int) = (txIn 1 (-1) false).tx.bitIndex + 1 ∧ (63 : Int) = (running 62 55 false 1000).tx.bitIndex + 1 ∧
    (-1 : Int) = (txIn 1 (-2) false).tx.bitIndex + 1 ∧ (65 : Int) = tailPeriod.tx.bitIndex + 1 := by decide

/-- A compare event that is due with `CC = PER - 1`; and each way it is not. -/
theorem test_wit_CompareIsDeliveredOnce :
    ((running 3 197 false 1000).ch.tmrEn = true ∧ (running 3 197 false 1000).ch.cmpEn = true ∧
      (running 3 197 false 1000).ch.cc.toNat < (running 3 197 false 1000).ch.per.toNat ∧
      (running 3 197 false 1000).ch.cmpDone = false ∧ (next? (exec .txCmp (running 3 197 false 1000))).isSome) ∧
    (running 3 198 false 1000).ch.per.toNat ≤ (running 3 198 false 1000).ch.cc.toNat ∧
    (next? (exec .txCmp (running 3 198 false 1000))).isSome ∧ (running 3 55 true 1100).ch.cmpDone = true ∧
    State.reset.ch.tmrEn = false ∧ State.reset.ch.cmpEn = false := by decide

/-- A compare event due, an overflow with `CC = PER`, a stopped channel, an event due now behind an undelivered edge, and a
later one. -/
theorem test_wit_ChannelEventIsDetermined :
    reservedState (withTurns [.timer] (running 3 197 false 1000)) = none ∧
    ((running 3 197 false 1000).ch.cmpEn = true ∧ (running 3 197 false 1000).ch.cc.toNat < 198 ∧
      (running 3 197 false 1000).ch.cmpDone = false) ∧
    ¬((running 3 198 false 1000).ch.cc.toNat < (running 3 198 false 1000).ch.per.toNat) ∧
    reservedState (withTurns [.timer] (running 3 198 false 1000)) = none ∧
    reservedState (withTurns [.timer] State.reset) = none ∧ State.reset.ch.tmrEn = false ∧
    nextEventTime (running 8 55 true 1198) ≤ (running 8 55 true 1198).now ∧
    (running 8 55 true 1100).now < nextEventTime (running 8 55 true 1100) := by decide

/-- The first, the last but one and the last data period of F0, whose bits 0 and 62 are 0 and 63 is 1. -/
theorem test_wit_TransmissionFollowsTheSchedule :
    (running 0 130 false 1000).cfg.WellFormed ∧ AtDataPeriod 0 (running 0 130 false 1000) ∧
    AtDataPeriod 62 (running 62 130 false 1000) ∧ AtDataPeriod 63 (running 63 55 false 1000) ∧ AtTailPeriod tailPeriod :=
  ⟨by decide, by unfold AtDataPeriod; decide, by unfold AtDataPeriod; decide, by unfold AtDataPeriod; decide,
    by unfold AtTailPeriod; decide⟩

theorem test_wit_TransmissionBeginsWithTheMarker :
    State.reset.cfg.WellFormed ∧ State.reset.loopback = false ∧ reservedState State.reset = none ∧
    State.reset.pending = [] ∧ State.reset.edges = [] ∧ reservedState (running 8 55 true 1100) = none ∧
    (running 8 55 true 1100).pending = [] ∧ (running 8 55 true 1100).edges = [] := by
  decide

theorem test_wit_ReassertWritesTheSameValue :
    (txIn 1 (-2) false).tx.bitIndex = -2 ∧ (txIn 1 (-2) false).cfg.CounterRange ∧
    (txIn 1 (-2) false).ch.invB = (txIn 1 (-2) false).tx.invert ∧ (next? (exec .txOvf (txIn 1 (-2) false))).isSome := by
  decide

/-- Up to the compare point itself, and after it up to the last instant of the period. -/
theorem test_wit_LineFollowsTheWaveform :
    (reservedState (withTurns [.elapse 55] (running 8 55 false 1000)) = none ∧ (running 8 55 false 1000).edges = [] ∧
      (running 8 55 false 1000).ch.tmrEn = true ∧
      (running 8 55 false 1000).periodStart ≤ (running 8 55 false 1000).now ∧
      (55 : Nat) = (running 8 55 false 1000).now + 55 - (running 8 55 false 1000).periodStart ∧
      55 < (running 8 55 false 1000).ch.per.toNat ∧
      (running 8 55 false 1000).now + 55 ≤ nextEventTime (running 8 55 false 1000)) ∧
    ((197 : Nat) = (running 8 55 true 1100).now + 97 - (running 8 55 true 1100).periodStart ∧
      197 < (running 8 55 true 1100).ch.per.toNat ∧
      (running 8 55 true 1100).now + 97 ≤ nextEventTime (running 8 55 true 1100)) := by decide

/-- One µs past the compare event, and one past the overflow. -/
theorem test_wit_TimeDoesNotSkipAnEvent :
    reservedState (withTurns [.elapse 56] (running 8 55 false 1000)) = none ∧ (running 8 55 false 1000).edges = [] ∧
    (running 8 55 false 1000).ch.tmrEn = true ∧ 0 < 56 ∧
    (running 8 55 false 1000).now ≤ nextEventTime (running 8 55 false 1000) ∧
    nextEventTime (running 8 55 false 1000) < (running 8 55 false 1000).now + 56 ∧
    (running 8 55 true 1100).now ≤ nextEventTime (running 8 55 true 1100) ∧
    nextEventTime (running 8 55 true 1100) < (running 8 55 true 1100).now + 99 := by decide

/-- Each clause: a rise, a fall, no change; the change at `CC` and at `PER`; time that ends at `CC`; reset. -/
theorem test_wit_LoopbackDeliversTheTransition :
    (wired State.reset).loopback = true ∧
    (next? (exec (.txSend F0) (wired State.reset))).map (·.edges) = some [⟨.rising, 0⟩] ∧
    (next? (exec .txStop (wired (running 8 55 true 1100)))).map (·.edges) = some [⟨.falling, 1100⟩] ∧
    (next? (exec .txInit (wired State.reset))).map (·.edges) = some [] ∧
    (compareDue (running 8 55 false 1000).ch = true ∧
      (next? (exec .txCmp (wired (running 8 55 false 1000)))).map (·.edges) = some [⟨.rising, 1055⟩]) ∧
    (compareDue (running 8 55 true 1100).ch = false ∧
      (next? (exec .txOvf (wired (running 8 55 true 1100)))).map (·.edges) = some [⟨.falling, 1198⟩]) ∧
    (next? (exec .txOvf (wired (txIn 2 64 true)))).isSome ∧
    (compareDue (running 8 55 false 1010).ch = true ∧ (next? (exec .txOvf (wired (running 8 55 false 1010)))).isSome) ∧
    (next? (step (wired (withTurns [.elapse 55] (running 8 55 false 1000))))).map (·.edges) = some [⟨.rising, 1055⟩] ∧
    (next? (step (wired (withTurns [.reset] (running 8 55 true 1100))))).map (·.edges) = some [⟨.falling, 1100⟩] :=
  ⟨by decide, by decide, by decide, by decide, by decide, by decide, by decide, by decide, by decide, by decide⟩

/-- A delivery asked for, and one that comes of itself. -/
theorem test_wit_LoopedBackEdgesAreDeliveredInOrder :
    reservedState { withTurns [.lineEdge] State.reset with edges := [⟨.rising, 4294967297⟩] } = none ∧
    reservedState { State.reset with edges := [⟨.falling, 5⟩, ⟨.rising, 9⟩] } = none := by decide

/-- An operation that adds a transition, and a step that delivers one. -/
theorem test_wit_LineEdgesAreNotLost :
    (next? (exec (.txSend F0) (wired State.reset))).map (·.edges) = some [⟨.rising, 0⟩] ∧
    (next? (step { State.reset with edges := [⟨.falling, 5⟩, ⟨.rising, 9⟩] })).map (·.edges) = some [⟨.rising, 9⟩] := by
  decide

/-- From reset, whose line is low; and from a data period whose high line RX has not seen to rise. -/
theorem test_wit_RoundTripReproducesTheFrame :
    (State.reset.cfg.WellFormed ∧ TimerRegistersFit State.reset.cfg State.reset.ch) ∧
    reservedState (withTurns [.command .consumer (encode (.txSend F0))] (wired State.reset)) = none ∧
    (TimerRegistersFit Config.nominal (running 8 55 true 1100).ch ∧ (running 8 55 true 1100).ch.tmrOut = true ∧
      (running 8 55 true 1100).rx.riseValid = false ∧ (running 8 55 true 1100).edges = [] ∧
      reservedState (withTurns [.command .consumer (encode (.txSend F0))] (wired (running 8 55 true 1100))) = none) :=
  ⟨by decide, by decide, by decide⟩

theorem test_wit_EveryOperationEndsWithAnOutcome : State.reset.rx.state ≠ 3 := by decide

theorem test_wit_ErrorsWriteNoState :
    (answer? (exec (.lyBit F0 64) State.reset)).bind outcomeCode ≠ some 0 ∧
    (next? (exec (.lyBit F0 64) State.reset)).isSome := by decide

/-- Registers that do change: a data bit, a load, a latch, and the line. -/
theorem test_wit_RegistersHaveTheirWritersOnly :
    (next? (exec (.rxPulse 150) (rxIn 1 5 0x15 false))).map (·.rx.frame) = some 0x2B ∧
    (next? (exec .txCmp (running 3 130 false 1000))).map (·.ch.ccB) ≠ some (running 3 130 false 1000).ch.ccB ∧
    (next? (exec .txOvf (running 63 55 true 1198))).map (·.ch.perB) = some 109 ∧
    (next? (exec .txOvf (running 63 55 true 1198))).map (·.ch.tmrOut) ≠ some (running 63 55 true 1198).ch.tmrOut := by
  decide

theorem test_wit_UnitsAreIndependent :
    isRx (.rxPulse 150) = true ∧ (running 8 55 true 1100).cfg = State.reset.cfg ∧
    (running 8 55 true 1100).rx = State.reset.rx ∧ (next? (exec (.rxPulse 150) State.reset)).isSome ∧
    isTx .txOvf = true ∧ (next? (exec .txOvf (running 8 55 true 1100))).isSome := by decide

theorem test_wit_EdgeAndTimerEventsCommute :
    isEdgeEvent (.rxPulse 150) = true ∧ isTimerEvent .txOvf = true ∧
    (next? (exec (.rxPulse 150) (running 8 55 true 1100))).isSome ∧
    (next? (exec .txOvf (running 8 55 true 1100))).isSome := by decide

theorem test_wit_AgentsIssueTheirOwnOperations :
    reservedState (withTurns [.command .consumer (encode .txOvf)] State.reset) = none ∧
    isTimerEvent .txOvf = true ∧ isEdgeEvent (.rxPulse 20) = true ∧ isEdgeEvent .rxAck = false ∧
    isTimerEvent .rxAck = false ∧ isEdgeEvent (.txSend F0) = false ∧
    reservedState { withTurns [.command .edge (encode (.rxPulse 20))] State.reset with edges := [⟨.falling, 5⟩] } = none ∧
    refusal? (step (withTurns [.command .consumer [0x24]] State.reset)) = some (.notIssued .consumer) := by decide

/-- A word with another one behind it, and one alone; each agent may issue something. -/
theorem test_wit_StepRunsTheDecodedOperation :
    reservedState (withTurns [.command .consumer [0x06, 0x05]] State.reset) = none ∧
    decode [0x06, 0x05] = .ok (.rxAck, [0x05]) ∧ decode [0x06] = .ok (.rxAck, []) ∧
    mayIssue .consumer .rxAck State.reset = true ∧ mayIssue .edge (.rxRise 5) State.reset = true ∧
    mayIssue .timer .txCmp (running 3 130 false 1000) = true ∧ mayIssue .harness .txOvf State.reset = true ∧
    (isLaterEdge .consumer .rxAck = false ∧ takesTime .rxAck State.reset = false) ∧
    (isLaterEdge .edge (.rxRise 5) = true ∧ takesTime .txCmp (running 3 130 false 1000) = true ∧
      reservedState { running 3 130 false 1000 with edges := [⟨.falling, 5⟩] } = none) :=
  ⟨by decide, rfl, rfl, by decide, by decide, by decide, by decide, by decide, by decide⟩

theorem test_wit_TransitionIsAnEdgeOperation :
    reservedState (withTurns [.transition .rising 4294967297] State.reset) = none ∧
    reservedState (withTurns [.transition .falling 5] State.reset) = none ∧
    reservedState { withTurns [.transition .falling 5] State.reset with edges := [⟨.rising, 3⟩] } = none := by decide

theorem test_wit_ResetValues :
    (running 8 55 true 1100).cfg.TimesFit ∧ (next? (exec .txInit (running 8 55 true 1100))).isSome := by decide

theorem test_wit_ResetTurnResetsTheBlock :
    reservedState (withTurns [.reset] (running 8 55 true 1100)) = none ∧ (running 8 55 true 1100).loopback = false := by
  decide

theorem test_wit_BlockWaitsForEvents :
    reservedState State.reset = none ∧ State.reset.pending = [] ∧ State.reset.edges = [] ∧ State.reset.ch.tmrEn = false ∧
    reservedState (running 8 55 true 1100) = none ∧ (running 8 55 true 1100).pending = [] ∧
    channelNext (running 8 55 true 1100).ch = some .txOvf := by decide

theorem test_wit_ConfigurationNeverChanges : (next? (step (withTurns [.reset] State.reset))).isSome := by decide

theorem test_wit_InvariantAtReset : { Config.nominal with markerOn := 500 }.WellFormed := by decide

/-- The invariant holds in a running channel before its compare event. -/
theorem test_wit_Invariant_before_compare : Invariant (running 8 55 false 1055) :=
  ⟨by decide, by decide, by decide, ⟨by decide, by decide, by decide⟩, by decide⟩

/-- … with that event due, and in the tail period. -/
theorem test_wit_Invariant_in_tail : Invariant tailPeriod :=
  ⟨by decide, by decide, by decide, ⟨by decide, by decide, by decide⟩, by decide⟩

/-- … with a transition of the current instant on its way. -/
theorem test_wit_Invariant_with_edge : LineInvariant { wired (running 8 55 true 1055) with edges := [⟨.rising, 1055⟩] } := by
  decide

/-- … past it, in a state that steps. -/
theorem test_wit_StepKeepsTheInvariant :
    Invariant (running 8 55 true 1055) ∧ (next? (step (running 8 55 true 1055))).isSome :=
  ⟨⟨by decide, by decide, by decide, ⟨by decide, by decide, by decide⟩, by decide⟩, by decide⟩

end Sys2Proof.Tests
end

namespace Sys2Proof.Machine

open Sys2Proof

/-! ## What the operations and the steps can do, said once -/

/-! ### Register widths and state codes -/

/-- A reduced value fits its width (R10). -/
theorem lowBits_toNat_lt {w : Nat} (k : Nat) (v : BitVec w) : (lowBits k v).toNat < 2 ^ k := by
  rw [lowBits_toNat]
  exact Nat.mod_lt _ (Nat.two_pow_pos k)

/-- Whatever is loaded into a period or compare register has `TMR_W` bits (R42, R43). -/
theorem timerWord_toNat_lt (c : Config) (us : Nat) : (timerWord c us).toNat < 2 ^ c.tmrW := by
  rw [timerWord, BitVec.toNat_ofNat]
  exact Nat.lt_of_le_of_lt (Nat.mod_le _ _) (Nat.mod_lt _ (Nat.two_pow_pos _))

/-- No unit state is encoded by the reserved value (R45). -/
theorem UnitState.code_ne_three (u : UnitState) : u.code ≠ 3#2 := by
  cases u <;> decide

/-- An index register that holds `BI_MAX` has bits for -2..66 (R13, R15). -/
theorem biW_bounds_of_counterRange {c : Config} (h : c.CounterRange) :
    0 < c.biW ∧ (66 : Int) < 2 ^ (c.biW - 1) := by
  obtain ⟨hlo, hhi⟩ := h
  refine ⟨Nat.pos_of_ne_zero fun h0 => ?_, by omega⟩
  simp only [h0, Nat.zero_sub, pow_zero] at hhi
  omega

/-- Where `BI_MAX` and the index are in range, `sat_inc` counts up to `BI_MAX` (R13). -/
theorem satInc_of_counterRange {c : Config} {b : Int} (hc : c.CounterRange) (hb : -2 ≤ b) :
    satInc c b = min (b + 1) c.biMax := by
  obtain ⟨hw, hp⟩ := biW_bounds_of_counterRange hc
  obtain ⟨hlo, hhi⟩ := hc
  exact satInc_eq hw (by omega) (by omega) hhi

/-! ### The RX unit -/

/-- The RX context an operation's pulse is classified in: a falling edge has recorded its time (R142). -/
def recordedFall (c : Config) (i : Instr) (rx : RxContext) : RxContext :=
  match i with
  | .rxFall t => { rx with lastFall := lowBits c.tsW t }
  | _ => rx

/-- Recording a falling edge writes `rx_last_fall` only (R36). -/
theorem recordedFall_eq (c : Config) (i : Instr) (rx : RxContext) :
    recordedFall c i rx = { rx with lastFall := (recordedFall c i rx).lastFall } := by
  cases i <;> rfl

@[simp] theorem recordedFall_frame (c : Config) (i : Instr) (rx : RxContext) :
    (recordedFall c i rx).frame = rx.frame := by rw [recordedFall_eq]
@[simp] theorem recordedFall_bitIndex (c : Config) (i : Instr) (rx : RxContext) :
    (recordedFall c i rx).bitIndex = rx.bitIndex := by rw [recordedFall_eq]
@[simp] theorem recordedFall_state (c : Config) (i : Instr) (rx : RxContext) :
    (recordedFall c i rx).state = rx.state := by rw [recordedFall_eq]
@[simp] theorem recordedFall_done (c : Config) (i : Instr) (rx : RxContext) :
    (recordedFall c i rx).done = rx.done := by rw [recordedFall_eq]
@[simp] theorem recordedFall_lastRise (c : Config) (i : Instr) (rx : RxContext) :
    (recordedFall c i rx).lastRise = rx.lastRise := by rw [recordedFall_eq]
@[simp] theorem recordedFall_riseValid (c : Config) (i : Instr) (rx : RxContext) :
    (recordedFall c i rx).riseValid = rx.riseValid := by rw [recordedFall_eq]

/-- Only RX.FALL records a falling edge (R53). -/
theorem recordedFall_lastFall_ne {c : Config} {i : Instr} {rx : RxContext}
    (h : (recordedFall c i rx).lastFall ≠ rx.lastFall) : ∃ x, i = .rxFall x := by
  cases i with
  | rxFall x => exact ⟨x, rfl⟩
  | _ => exact absurd rfl h

theorem recordedFall_lastFall_lt {c : Config} (i : Instr) {rx : RxContext} (h : rx.lastFall.toNat < 2 ^ c.tsW) :
    (recordedFall c i rx).lastFall.toNat < 2 ^ c.tsW := by
  cases i with
  | rxFall x => exact lowBits_toNat_lt _ _
  | _ => exact h

/-- What an operation may write into the RX context, by the operations R53 lists for its registers. -/
inductive RxWrites (i : Instr) (s : State) (rx : RxContext) : Prop where
  /-- Nothing: every operation but the four below. -/
  | nothing (h : rx = s.rx)
  /-- A rising edge is recorded (R141). -/
  | rise (x : Timestamp) (hi : i = .rxRise x) (h : rx = recordRise s.cfg x s.rx)
  /-- The consumer acknowledges (R153). -/
  | ack (hi : i = .rxAck) (h : rx = { s.rx with done := false })
  /-- A falling edge is recorded, with no width measured (R142). -/
  | discarded (x : Timestamp) (hi : i = .rxFall x) (h : rx = recordedFall s.cfg i s.rx)
  /-- A width goes to the classifier (R142, R143, R149). -/
  | classified (w : PulseWidth) (hi : isEdgeEvent i = true) (hw : forwardedWidth i s = some w)
      (h : classify s.cfg w (recordedFall s.cfg i s.rx) = .ok rx)

/-- Every operation belongs to one of the three units (R107). -/
theorem unit_cases (i : Instr) : isRx i = true ∨ isLy i = true ∨ isTx i = true := by
  unfold isTx
  cases isRx i <;> cases isLy i <;> simp

/-- An LY operation answers, and what it answers is settled by the configuration (R51). -/
theorem exec_ly {i : Instr} (c : Config) (hi : isLy i = true) :
    ∃ r : Response, ∀ s : State, s.cfg = c → exec i s = .next (s.answer r) := by
  cases i with
  | lyBit f j =>
    by_cases hj : 63 < j.toNat
    · exact ⟨_, fun s _ => if_pos hj⟩
    · exact ⟨_, fun s _ => if_neg hj⟩
  | lyByte f j =>
    by_cases hj : 7 < j.toNat
    · exact ⟨_, fun s _ => if_pos hj⟩
    · exact ⟨_, fun s _ => if_neg hj⟩
  | lyDecode f => exact ⟨_, fun s _ => rfl⟩
  | lyCsum f => exact ⟨_, fun s _ => rfl⟩
  | lyCurrent f =>
    cases he : converterExponent c (frameFields f).exponent with
    | none => exact ⟨_, fun s hs => by simp only [exec, execLyCurrent, hs, he]; rfl⟩
    | some e => exact ⟨_, fun s hs => by simp only [exec, execLyCurrent, hs, he]; rfl⟩
  | lyPower f v =>
    cases he : converterExponent c (frameFields f).exponent with
    | none => exact ⟨_, fun s hs => by simp only [exec, execLyPower, hs, he]; rfl⟩
    | some e => exact ⟨_, fun s hs => by simp only [exec, execLyPower, hs, he]; rfl⟩
  | _ => cases hi

/-- An RX operation writes the RX context and the response only, and what it writes is settled by the configuration and
the RX context (R57). -/
theorem exec_rx {i : Instr} {s t : State} (hi : isRx i = true) (h : exec i s = .next t) :
    ∃ rx r, t = (s.setRx rx).answer r ∧
      ∀ s' : State, s'.cfg = s.cfg → s'.rx = s.rx → exec i s' = .next ((s'.setRx rx).answer r) := by
  cases i with
  | rxRise x => cases h; exact ⟨_, _, rfl, fun s' hc hr => by simp only [exec, execRxRise, hc, hr]; rfl⟩
  | rxFall x =>
    obtain ⟨rx, hrx, rfl⟩ := finishRx_eq_next_iff.1 h
    exact ⟨rx, _, rfl, fun s' hc hr => finishRx_eq_next_iff.2 ⟨rx, by rw [hc, hr, hrx], rfl⟩⟩
  | rxPulse w =>
    obtain ⟨rx, hrx, rfl⟩ := finishRx_eq_next_iff.1 h
    exact ⟨rx, _, rfl, fun s' hc hr => finishRx_eq_next_iff.2 ⟨rx, by rw [hc, hr, hrx], rfl⟩⟩
  | rxStatus =>
    cases hs : UnitState.ofCode s.rx.state with
    | none => simp [exec, execRxStatus, hs] at h
    | some u =>
      simp only [exec, execRxStatus, hs, returnValue, Host.Outcome.next.injEq] at h
      subst h
      exact ⟨s.rx, _, rfl, fun s' _ hr => by rw [← hr] at hs ⊢; simp only [exec, execRxStatus, hs]; rfl⟩
  | rxFrame => cases h; exact ⟨s.rx, _, rfl, fun s' _ hr => by rw [← hr]; rfl⟩
  | rxAck => cases h; exact ⟨_, _, rfl, fun s' _ hr => by simp only [exec, execRxAck, hr]; rfl⟩
  | _ => cases hi

/-- An operation outside the TX unit writes the RX context and the response at most (R57). -/
theorem exec_next_of_not_tx {i : Instr} {s t : State} (hi : isTx i = false) (h : exec i s = .next t) :
    ∃ rx r, t = (s.setRx rx).answer r := by
  rcases unit_cases i with hr | hl | ht
  · obtain ⟨rx, r, rfl, -⟩ := exec_rx hr h
    exact ⟨rx, r, rfl⟩
  · obtain ⟨r, hr⟩ := exec_ly s.cfg hl
    rw [hr s rfl] at h
    cases h
    exact ⟨s.rx, r, rfl⟩
  · simp [hi] at ht

/-! ### The TX unit -/

/-- Letting the clock run writes the output level only, of the channel (R314). -/
theorem advanceTo_ch (time : Nat) (s : State) :
    (s.advanceTo time).ch = { s.ch with tmrOut := (s.advanceTo time).ch.tmrOut } := by
  obtain ⟨-, -, -, -, -, -, -, -, hch⟩ := advanceTo_eq time s
  exact hch

/-- The state at which TX.OVF runs: where the overflow is the channel's next event, time has come to `PER` (R315). -/
def State.atOverflow (s : State) : State :=
  if s.ch.tmrEn && !compareDue s.ch then s.advanceTo (s.periodStart + s.ch.per.toNat) else s

/-- TX.OVF's writes at the current instant: R254's, and where the channel goes on, the latch (R315). -/
def State.overflowNow (s : State) : State :=
  if (overflow s.cfg s.tx s.ch).2.tmrEn then
    ((s.setTx (overflow s.cfg s.tx s.ch).1).driveChannel s.now (latch (overflow s.cfg s.tx s.ch).2)).beginPeriod
  else (s.setTx (overflow s.cfg s.tx s.ch).1).driveChannel s.now (overflow s.cfg s.tx s.ch).2

/-- The state at which TX.CMP runs: where the compare event is due, time has come to `CC` and the delivery is recorded
(R318). -/
def State.atCompare (s : State) : State :=
  if compareDue s.ch then (s.advanceTo (s.periodStart + s.ch.cc.toNat)).markCompared else s

/-- TX.CMP's load at the current instant (R255). -/
def State.loadCompare (s : State) : State :=
  s.driveChannel s.now (compareLoad s.cfg s.tx s.ch)

@[simp] theorem State.atOverflow_cfg (s : State) : s.atOverflow.cfg = s.cfg := by
  unfold State.atOverflow
  split <;> simp
@[simp] theorem State.atOverflow_rx (s : State) : s.atOverflow.rx = s.rx := by
  unfold State.atOverflow
  split <;> simp
@[simp] theorem State.atOverflow_tx (s : State) : s.atOverflow.tx = s.tx := by
  unfold State.atOverflow
  split <;> simp
@[simp] theorem State.atOverflow_loopback (s : State) : s.atOverflow.loopback = s.loopback := by
  unfold State.atOverflow
  split <;> simp
theorem State.atOverflow_ch (s : State) : s.atOverflow.ch = { s.ch with tmrOut := s.atOverflow.ch.tmrOut } := by
  unfold State.atOverflow
  split
  · exact advanceTo_ch _ s
  · rfl

@[simp] theorem State.atCompare_cfg (s : State) : s.atCompare.cfg = s.cfg := by
  unfold State.atCompare
  split <;> simp
@[simp] theorem State.atCompare_rx (s : State) : s.atCompare.rx = s.rx := by
  unfold State.atCompare
  split <;> simp
@[simp] theorem State.atCompare_tx (s : State) : s.atCompare.tx = s.tx := by
  unfold State.atCompare
  split <;> simp
@[simp] theorem State.atCompare_loopback (s : State) : s.atCompare.loopback = s.loopback := by
  unfold State.atCompare
  split <;> simp
theorem State.atCompare_ch (s : State) :
    s.atCompare.ch = { s.ch with tmrOut := s.atCompare.ch.tmrOut, cmpDone := s.atCompare.ch.cmpDone } := by
  unfold State.atCompare
  split
  · rw [State.markCompared_ch, advanceTo_ch]
  · rfl

/-- TX.OVF in two parts: the clock, then the writes (R254, R315). -/
theorem exec_txOvf (s : State) : exec .txOvf s = .next (s.atOverflow.overflowNow.answer (.ok .nothing)) := by
  simp only [exec, execTxOvf, returnValue, State.overflowNow, State.atOverflow_cfg]
  rfl

/-- TX.CMP in two parts: the clock and the record of the delivery, then the load (R255, R318). -/
theorem exec_txCmp (s : State) : exec .txCmp s = .next (s.atCompare.loadCompare.answer (.ok .nothing)) := by
  simp only [exec, execTxCmp, returnValue, State.loadCompare, State.atCompare_cfg]
  rfl

/-- The overflow event either ends the transmission, at index `DATA_BITS + TAIL_BITS`, or counts the index up and loads at
most the polarity and the buffered period (R254). -/
theorem overflow_stops_or_goes_on (c : Config) (tx : TxContext) (ch : Channel) :
    (satInc c tx.bitIndex = c.dataBits + c.tailBits ∧ overflow c tx ch =
      ({ tx with bitIndex := satInc c tx.bitIndex, state := UnitState.stop.code }, timerDisable ch)) ∨
    ((satInc c tx.bitIndex = c.dataBits + c.tailBits →
        satInc c tx.bitIndex = 0 ∨ satInc c tx.bitIndex = -1 ∨ satInc c tx.bitIndex = c.dataBits) ∧
      ∃ v b p, overflow c tx ch =
        ({ tx with bitIndex := satInc c tx.bitIndex, invert := v }, { ch with invB := b, perB := p }) ∧
        (ch.invB = tx.invert → b = v) ∧ (p = ch.perB ∨ ∃ us, p = timerWord c us)) := by
  rcases overflow_cases c tx ch with ⟨h, e⟩ | ⟨h, e⟩ | ⟨-, -, h, e⟩ | ⟨-, -, -, h, e⟩ | ⟨-, -, -, h, e⟩
  · exact .inr ⟨fun _ => .inl h, _, _, _, e, fun _ => rfl, .inr ⟨_, rfl⟩⟩
  · exact .inr ⟨fun _ => .inr (.inl h), tx.invert, tx.invert, ch.perB, e, fun _ => rfl, .inl rfl⟩
  · exact .inr ⟨fun _ => .inr (.inr h), tx.invert, ch.invB, _, e, id, .inr ⟨_, rfl⟩⟩
  · exact .inl ⟨h, e⟩
  · exact .inr ⟨fun h' => absurd h' h, tx.invert, ch.invB, ch.perB, e, id, .inl rfl⟩

/-- The buffered compare point after the compare event is the old one or a parameter (R255). -/
theorem compareLoad_ccB (c : Config) (tx : TxContext) (ch : Channel) :
    (compareLoad c tx ch).ccB = ch.ccB ∨ ∃ us, (compareLoad c tx ch).ccB = timerWord c us := by
  unfold compareLoad
  dsimp only
  split
  · exact .inr ⟨_, rfl⟩
  · split
    · exact .inr ⟨_, rfl⟩
    · exact .inl rfl

@[simp] theorem State.overflowNow_cfg (s : State) : s.overflowNow.cfg = s.cfg := by
  unfold State.overflowNow
  split <;> rfl
@[simp] theorem State.overflowNow_rx (s : State) : s.overflowNow.rx = s.rx := by
  unfold State.overflowNow
  split <;> rfl
@[simp] theorem State.overflowNow_tx (s : State) : s.overflowNow.tx = (overflow s.cfg s.tx s.ch).1 := by
  unfold State.overflowNow
  split <;> rfl
@[simp] theorem State.overflowNow_loopback (s : State) : s.overflowNow.loopback = s.loopback := by
  unfold State.overflowNow
  split <;> rfl
theorem State.overflowNow_ch (s : State) :
    s.overflowNow.ch =
      if (overflow s.cfg s.tx s.ch).2.tmrEn then latch (overflow s.cfg s.tx s.ch).2
      else (overflow s.cfg s.tx s.ch).2 := by
  unfold State.overflowNow
  split <;> rfl

/-- A TX operation leaves the RX context (R57). -/
theorem exec_tx_rx {i : Instr} {s t : State} (hi : isTx i = true) (h : exec i s = .next t) : t.rx = s.rx := by
  cases i with
  | txInit => cases h; rfl
  | txSend f => cases h; rfl
  | txStop => cases h; rfl
  | txOvf => rw [exec_txOvf] at h; cases h; simp
  | txCmp => rw [exec_txCmp] at h; cases h; exact s.atCompare_rx
  | _ => cases hi

/-- No operation writes the configuration or the wiring (R52). -/
theorem exec_cfg_loopback {i : Instr} {s t : State} (h : exec i s = .next t) :
    t.cfg = s.cfg ∧ t.loopback = s.loopback := by
  cases hi : isTx i with
  | false => obtain ⟨rx, r, rfl⟩ := exec_next_of_not_tx hi h; exact ⟨rfl, rfl⟩
  | true =>
    cases i with
    | txInit => cases h; exact ⟨rfl, rfl⟩
    | txSend f => cases h; exact ⟨rfl, rfl⟩
    | txStop => cases h; exact ⟨rfl, rfl⟩
    | txOvf => rw [exec_txOvf] at h; cases h; simp
    | txCmp => rw [exec_txCmp] at h; cases h; exact ⟨s.atCompare_cfg, s.atCompare_loopback⟩
    | _ => cases hi

/-- Everything an operation can do to the RX context (R53). -/
theorem exec_rxWrites {i : Instr} {s t : State} (h : exec i s = .next t) : RxWrites i s t.rx := by
  rcases unit_cases i with hr | hl | ht
  · cases i with
    | rxRise x => cases h; exact .rise x rfl rfl
    | rxFall x =>
      obtain ⟨rx, hrx, rfl⟩ := finishRx_eq_next_iff.1 h
      rw [recordFall_eq] at hrx
      split at hrx
      case isTrue hw => exact .classified _ rfl (if_pos hw) hrx
      case isFalse => cases hrx; exact .discarded x rfl rfl
    | rxPulse w =>
      obtain ⟨rx, hrx, rfl⟩ := finishRx_eq_next_iff.1 h
      exact .classified _ rfl rfl hrx
    | rxStatus =>
      simp only [exec, execRxStatus] at h
      split at h
      · cases h
      · cases h; exact .nothing rfl
    | rxFrame => cases h; exact .nothing rfl
    | rxAck => cases h; exact .ack rfl rfl
    | _ => cases hr
  · obtain ⟨r, hr⟩ := exec_ly s.cfg hl
    rw [hr s rfl] at h
    cases h
    exact .nothing rfl
  · exact .nothing (exec_tx_rx ht h)

/-! ### Steps -/

/-- What a step that answers a next state has done: run one operation, on the turns and the transitions it has left; run
none; let the clock run no further than the channel's next event; or reset the block. An operation or a clock that lets
time go by does so with no transition on its way (R320). -/
inductive StepEffect (s t : State) : Prop where
  /-- One operation has run. -/
  | operation (i : Instr) (p : List Turn) (es : List LineEdge) (hes : es <:+ s.edges)
      (hw : takesTime i s = true → es = []) (h : exec i { s with pending := p, edges := es } = .next t)
  /-- No operation has run. -/
  | noOperation (p : List Turn) (r : Response) (h : t = { s with pending := p, response := r })
  /-- Time has gone by. -/
  | clock (p : List Turn) (time : Nat) (he : s.now < time → s.edges = [])
      (hn : s.ch.tmrEn = true → time ≤ nextEventTime s) (h : t = ({ s with pending := p }).advanceTo time)
  /-- The block has been reset. -/
  | reset (p : List Turn) (h : t = resetBlock { s with pending := p })

/-- The effect of a turn on the state it has left is the effect of a step. -/
theorem StepEffect.of_pending {s t : State} {q : List Turn} (h : StepEffect { s with pending := q } t) :
    StepEffect s t := by
  cases h with
  | operation i p es hes hw h => exact .operation i p es hes hw h
  | noOperation p r h => exact .noOperation p r h
  | clock p time he hn h => exact .clock p time he hn h
  | reset p h => exact .reset p h

theorem StepEffect.of_asksAgain {s t : State} {x : Turn} (h : StepEffect (s.asksAgain x) t) : StepEffect s t :=
  StepEffect.of_pending (q := x :: s.pending) h

theorem takesTime_eq_true_iff (i : Instr) (s : State) :
    takesTime i s = true ↔ channelNext s.ch = some i ∧ s.now < nextEventTime s := by
  simp [takesTime]

/-- An edge of the line is no event of the channel. -/
theorem takesTime_edgeInstr (d : EdgeDir) (time : Nat) (s : State) : takesTime (edgeInstr d time) s = false := by
  rw [← Bool.not_eq_true, takesTime_eq_true_iff, channelNext_eq_some_iff]
  cases d <;> simp [edgeInstr]

/-- Putting bytes back writes the list of turns only. -/
theorem pushBytes_eq (a : Agent) (bytes : List Byte) (s : State) :
    ∃ p, s.pushBytes a bytes = { s with pending := p } := by
  unfold State.pushBytes
  split
  · exact ⟨s.pending, rfl⟩
  · exact ⟨_, rfl⟩

theorem deliverEdge_effect {s t : State} (h : deliverEdge s = .next t) : StepEffect s t := by
  cases he : s.edges with
  | nil =>
    simp only [deliverEdge, he, Host.Outcome.next.injEq] at h
    exact .noOperation s.pending s.response h.symm
  | cons e rest =>
    rw [deliverEdge_eq he] at h
    exact .operation _ s.pending rest (he ▸ List.suffix_cons e rest) (by simp [takesTime_edgeInstr]) h

theorem channelStep_effect {s t : State} (hw : s.ch.tmrEn = true → s.now < nextEventTime s → s.edges = [])
    (h : channelStep s = .next t) : StepEffect s t := by
  cases hn : channelNext s.ch with
  | none =>
    simp only [channelStep, hn, Host.Outcome.next.injEq] at h
    exact .noOperation s.pending s.response h.symm
  | some i =>
    simp only [channelStep, hn] at h
    have hen : s.ch.tmrEn = true := ((channelNext_eq_some_iff _ _).1 hn).1
    exact .operation i s.pending s.edges (List.suffix_refl _)
      (fun ht => hw hen ((takesTime_eq_true_iff i s).1 ht).2) h

theorem runCommand_effect {a : Agent} {bytes : List Byte} {s t : State}
    (hw : commandWaits a bytes s = true → s.edges = []) (h : runCommand a bytes s = .next t) : StepEffect s t := by
  cases hd : decode bytes with
  | error e =>
    simp only [runCommand, hd] at h
    cases e with
    | empty => exact .noOperation s.pending s.response (by cases h; rfl)
    | illegalOp op => exact .noOperation s.pending (.illegalOp op) (by cases h; rfl)
    | truncated op => cases h
  | ok d =>
    obtain ⟨i, more⟩ := d
    obtain ⟨p, hp⟩ := pushBytes_eq a more s
    simp only [runCommand, hd, issue, hp] at h
    split at h
    case isFalse => cases h
    case isTrue hi =>
      have hm : mayIssue a i s = true := hi
      refine .operation i p s.edges (List.suffix_refl _) (fun ht => hw ?_) h
      simp only [commandWaits, hd, hm, ht, Bool.or_true, Bool.and_self]

theorem elapse_effect {us : Nat} {s t : State} (hw : 0 < us → s.edges = []) (h : elapse us s = .next t) :
    StepEffect s t := by
  unfold elapse at h
  split at h
  case isTrue hc =>
    simp only [Bool.and_eq_true, decide_eq_true_eq] at hc
    refine (channelStep_effect (s := s.asksAgain _) (fun _ hn => hw ?_) h).of_asksAgain
    have hn' : s.now < nextEventTime s := hn
    omega
  case isFalse hc =>
    simp only [Bool.and_eq_true, decide_eq_true_eq, not_and, not_lt] at hc
    cases h
    exact .clock s.pending _ (fun hlt => hw (by omega)) hc rfl

theorem takeTurn_effect {x : Turn} {s t : State} (hw : turnWaits x s = false) (h : takeTurn x s = .next t) :
    StepEffect s t := by
  have hb : s.edges = [] ∨ s.edges.isEmpty = false := by cases s.edges <;> simp
  cases x with
  | command a bytes =>
    refine runCommand_effect (fun hc => hb.resolve_right fun he => ?_) h
    simp [turnWaits, he, hc] at hw
  | transition d time =>
    exact .operation _ s.pending s.edges (List.suffix_refl _) (by simp [takesTime_edgeInstr]) h
  | lineEdge => exact deliverEdge_effect h
  | timer =>
    refine channelStep_effect (fun hen hn => hb.resolve_right fun he => ?_) h
    simp [turnWaits, he, hen, hn] at hw
  | elapse us =>
    refine elapse_effect (fun hu => hb.resolve_right fun he => ?_) h
    simp [turnWaits, he, hu] at hw
  | reset => exact .reset s.pending (by cases h; rfl)

/-- Everything a step can do (R89, R312, R320, R350). -/
theorem step_effect {s t : State} (h : step s = .next t) : reservedState s = none ∧ StepEffect s t := by
  cases hr : reservedState s with
  | some e => rw [step_of_reserved hr] at h; cases h
  | none =>
    refine ⟨rfl, ?_⟩
    cases hp : s.pending with
    | nil =>
      cases he : s.edges with
      | nil =>
        rw [step_of_none_pending hr hp he] at h
        exact channelStep_effect (fun _ _ => he) h
      | cons e more =>
        rw [step_of_edge hr hp he, ← deliverEdge_eq he] at h
        exact deliverEdge_effect h
    | cons x rest =>
      rw [step_of_pending hr hp, runTurn] at h
      split at h
      case isTrue => exact (deliverEdge_effect h).of_asksAgain.of_pending
      case isFalse hw => exact (takeTurn_effect (by simpa using hw) h).of_pending

end Sys2Proof.Machine

namespace Sys2Proof.Machine

open Sys2Proof

/-! ## The invariant -/

/-! ### The loopback and the waveform -/

theorem mem_levelChange {a b : Bool} {time : Nat} {e : LineEdge} (h : e ∈ levelChange a b time) :
    a ≠ b ∧ e.time = time := by
  unfold levelChange at h
  split at h
  case isTrue => cases h
  case isFalse hne =>
    rw [List.mem_singleton] at h
    exact ⟨hne, by rw [h]⟩

/-- Writing the channel adds transitions of the time of the write only (R320). -/
theorem mem_driveChannel_edges {s : State} {time : Nat} {v : Channel} {e : LineEdge}
    (h : e ∈ (s.driveChannel time v).edges) : e ∈ s.edges ∨ (s.ch.tmrOut ≠ v.tmrOut ∧ e.time = time) := by
  rw [State.driveChannel_edges, List.mem_append] at h
  refine h.imp_right fun h => ?_
  split at h
  · exact mem_levelChange h
  · cases h

/-- Writing the channel at the current instant keeps the zero delay (R320). -/
theorem lineInvariant_driveChannel {s : State} (v : Channel) (h : LineInvariant s) :
    LineInvariant (s.driveChannel s.now v) := fun _ he =>
  (mem_driveChannel_edges he).elim (h _) And.right

/-- The level of the line changes only where the compare point is passed inside the period (R314). -/
theorem waveLevel_ne {per cc : Micros} {inv : Bool} {τ τ' : Nat} (hτ : τ ≤ τ')
    (h : waveLevel per cc inv τ ≠ waveLevel per cc inv τ') :
    τ < cc.toNat ∧ cc.toNat ≤ τ' ∧ cc.toNat < per.toNat := by
  by_contra hc
  have : (min τ (per.toNat - 1) < cc.toNat) ↔ (min τ' (per.toNat - 1) < cc.toNat) := by omega
  exact h (by rw [waveLevel, waveLevel, decide_eq_decide.2 this])

/-- The compare event is due in a running channel with it enabled, ahead in the period and not delivered (R318). -/
theorem compareDue_eq_true_iff (ch : Channel) :
    compareDue ch = true ↔
      ch.tmrEn = true ∧ ch.cmpEn = true ∧ ch.cc.toNat < ch.per.toNat ∧ ch.cmpDone = false := by
  simp [compareDue, and_assoc]

theorem nextEventTime_of_due {s : State} (h : compareDue s.ch = true) :
    nextEventTime s = s.periodStart + s.ch.cc.toNat := by
  simp [nextEventTime, h]

theorem nextEventTime_of_not_due {s : State} (h : compareDue s.ch = false) :
    nextEventTime s = s.periodStart + s.ch.per.toNat := by
  simp [nextEventTime, h]

/-- Letting the clock run leaves the instant of the channel's next event. -/
@[simp] theorem nextEventTime_advanceTo (time : Nat) (s : State) :
    nextEventTime (s.advanceTo time) = nextEventTime s := by
  rw [nextEventTime, advanceTo_ch, advanceTo_periodStart]
  rfl

/-! ### What a well-formed configuration gives -/

theorem frameShape_of_wellFormed {c : Config} (h : c.WellFormed) : c.FrameShape := by
  obtain ⟨-, -, -, -, -, -, hshape, -⟩ := h
  exact hshape

theorem counterRange_of_wellFormed {c : Config} (h : c.WellFormed) : c.CounterRange := by
  obtain ⟨-, -, -, -, -, -, -, hcount, -⟩ := h
  exact hcount

/-- TX.SEND starts from index -2 (R252). -/
theorem startIndex_of_wellFormed {c : Config} (h : c.WellFormed) : signedBits c.biW c.txStartIndex = -2 := by
  obtain ⟨-, -, -, hstart⟩ := frameShape_of_wellFormed h
  obtain ⟨hw, hp⟩ := biW_bounds_of_counterRange (counterRange_of_wellFormed h)
  rw [hstart]
  exact signedBits_of_fits hw (by omega) (by omega)

/-! ### Channels that stop or begin a period -/

/-- A stopped channel meets the invariant with its line low and no delivery recorded (R317). -/
theorem channelInvariant_of_stopped {s : State} (hfit : TimerRegistersFit s.cfg s.ch) (hen : s.ch.tmrEn = false)
    (hout : s.ch.tmrOut = false) (hdone : s.ch.cmpDone = false) : ChannelInvariant s :=
  ⟨hfit, fun _ => ⟨hout, hdone⟩, fun h => by simp [hen] at h⟩

/-- A channel at the start of a period meets the invariant with the waveform's first level (R315, R316). -/
theorem channelInvariant_of_begun {s : State} (hfit : TimerRegistersFit s.cfg s.ch) (hen : s.ch.tmrEn = true)
    (hnow : s.periodStart = s.now) (hout : s.ch.tmrOut = waveLevel s.ch.per s.ch.cc s.ch.inv 0)
    (hdone : s.ch.cmpDone = false) : ChannelInvariant s := by
  refine ⟨hfit, fun h => by simp [hen] at h, fun _ => ⟨hnow.le, ?_, ?_, fun h => by simp [hdone] at h⟩⟩
  · rw [nextEventTime, hnow]
    exact Nat.le_add_right _ _
  · rw [hout, hnow, Nat.sub_self]

/-! ### The RX unit -/

/-- The RX unit's invariant speaks of the configuration and the RX context only (R57). -/
theorem rxInvariant_congr {s t : State} (hc : t.cfg = s.cfg) (hr : t.rx = s.rx) (h : RxInvariant s) :
    RxInvariant t := by
  simpa only [RxInvariant, hc, hr] using h

/-- The classifier keeps the RX unit's invariant (R54). -/
theorem rxInvariant_classify {s : State} {w : PulseWidth} {rx : RxContext} (hc : s.cfg.CounterRange)
    (hinv : RxInvariant s) (h : classify s.cfg w s.rx = .ok rx) : RxInvariant (s.setRx rx) := by
  obtain ⟨hrise, hfall, hlo, hhi, hst⟩ := hinv
  have hmax : 66 ≤ s.cfg.biMax := hc.1
  rcases classify_cases h with ⟨-, rfl⟩ | ⟨-, -, -, rfl⟩ | ⟨-, -, -, rfl⟩ | ⟨-, -, rfl⟩
  · exact ⟨hrise, hfall, le_rfl, by simp only [State.setRx_cfg, State.setRx_rx]; omega, .inr rfl⟩
  · exact ⟨hrise, hfall, hlo, hhi, .inl rfl⟩
  · have hn : satInc s.cfg s.rx.bitIndex = min (s.rx.bitIndex + 1) s.cfg.biMax :=
      satInc_of_counterRange hc (by omega)
    refine ⟨hrise, hfall, ?_, ?_, hst⟩
    · simp only [State.setRx_rx, hn]; omega
    · simp only [State.setRx_rx, State.setRx_cfg, hn]; omega
  · exact ⟨hrise, hfall, hlo, hhi, hst⟩

/-- Whatever an operation writes into the RX context keeps the RX unit's invariant (R54). -/
theorem rxInvariant_of_rxWrites {i : Instr} {s : State} {rx : RxContext} (hc : s.cfg.CounterRange)
    (hinv : RxInvariant s) (h : RxWrites i s rx) : RxInvariant (s.setRx rx) := by
  obtain ⟨hrise, hfall, hidx⟩ := hinv
  have hfall' : RxInvariant (s.setRx (recordedFall s.cfg i s.rx)) := by
    refine ⟨?_, recordedFall_lastFall_lt i hfall, ?_⟩
    · simpa using hrise
    · simpa using hidx
  cases h with
  | nothing h => subst h; exact ⟨hrise, hfall, hidx⟩
  | rise x _ h => subst h; exact ⟨lowBits_toNat_lt _ _, hfall, hidx⟩
  | ack _ h => subst h; exact ⟨hrise, hfall, hidx⟩
  | discarded x _ h => subst h; exact hfall'
  | classified w _ _ h => exact rxInvariant_classify (s := s.setRx (recordedFall s.cfg i s.rx)) hc hfall' h

/-! ### The clock -/

/-- Up to the channel's next event a running line changes at the compare event's instant alone, and there the clock
stops (R314, R318). -/
theorem advanceTo_level_change {s : State} {time : Nat} (hen : s.ch.tmrEn = true) (hcmp : s.ch.cmpEn = true)
    (hinv : ChannelInvariant s) (hn : time ≤ nextEventTime s)
    (hne : s.ch.tmrOut ≠ (s.advanceTo time).ch.tmrOut) : s.periodStart + s.ch.cc.toNat = max s.now time := by
  obtain ⟨-, -, hrun⟩ := hinv
  obtain ⟨hstart, hnow, hout, hdone⟩ := hrun hen
  rw [advanceTo_ch_running time s hen, hout] at hne
  obtain ⟨hlt, hle, hper⟩ := waveLevel_ne (by omega) hne
  have hd : s.ch.cmpDone = false := by
    by_contra hd
    obtain ⟨-, hpast⟩ := hdone (by simpa using hd)
    omega
  have hnext := nextEventTime_of_due ((compareDue_eq_true_iff s.ch).2 ⟨hen, hcmp, hper, hd⟩)
  omega

/-- The transitions on their way stay those of the current instant (R320). -/
theorem lineInvariant_advanceTo {s : State} {time : Nat} (hline : LineInvariant s)
    (he : s.now < time → s.edges = [])
    (hchange : s.ch.tmrOut ≠ (s.advanceTo time).ch.tmrOut → s.periodStart + s.ch.cc.toNat = max s.now time) :
    LineInvariant (s.advanceTo time) := by
  intro e hmem
  rw [advanceTo_now]
  rw [advanceTo_edges, List.mem_append] at hmem
  rcases hmem with hmem | hmem
  · rcases Nat.lt_or_ge s.now time with hlt | hge
    · rw [he hlt] at hmem; cases hmem
    · rw [hline e hmem, Nat.max_eq_left hge]
  · split at hmem
    case isFalse => cases hmem
    case isTrue =>
      obtain ⟨hne, ht⟩ := mem_levelChange hmem
      rw [ht, hchange hne]

/-- The channel keeps its invariant while time goes by up to its next event (R314). -/
theorem channelInvariant_advanceTo {s : State} {time : Nat} (hinv : ChannelInvariant s)
    (hn : s.ch.tmrEn = true → time ≤ nextEventTime s) : ChannelInvariant (s.advanceTo time) := by
  obtain ⟨hfit, hstop, hrun⟩ := hinv
  cases hen : s.ch.tmrEn with
  | false =>
    obtain ⟨hout, hdone⟩ := hstop hen
    rw [advanceTo_stopped time s hen]
    exact channelInvariant_of_stopped hfit hen hout hdone
  | true =>
    obtain ⟨hstart, hnow, hout, hdone⟩ := hrun hen
    have hch := advanceTo_ch_running time s hen
    have htime := hn hen
    refine ⟨by simpa [hch] using hfit, by simp [hch, hen], fun _ => ⟨?_, ?_, by simp [hch], fun hd => ?_⟩⟩
    · rw [advanceTo_periodStart, advanceTo_now]; omega
    · rw [nextEventTime_advanceTo, advanceTo_now]; omega
    · obtain ⟨hper, hpast⟩ := hdone (by simpa [hch] using hd)
      simp only [hch, advanceTo_periodStart, advanceTo_now]
      omega

/-- Letting the clock run no further than the channel's next event, and only with no transition on its way, keeps the
invariant (R314, R318, R320). -/
theorem invariant_advanceTo {s : State} {time : Nat} (hinv : Invariant s) (he : s.now < time → s.edges = [])
    (hn : s.ch.tmrEn = true → time ≤ nextEventTime s) : Invariant (s.advanceTo time) := by
  obtain ⟨hwf, hrx, htx, hch, hline⟩ := hinv
  refine ⟨by rwa [advanceTo_cfg], rxInvariant_congr (advanceTo_cfg _ _) (advanceTo_rx _ _) hrx, ?_,
    channelInvariant_advanceTo hch hn, lineInvariant_advanceTo hline he fun hne => ?_⟩
  · rw [TxInvariant, advanceTo_ch, advanceTo_tx, advanceTo_cfg]
    exact htx
  · have ⟨_, _, _, _, _, hcmp, _⟩ := htx
    cases hen : s.ch.tmrEn with
    | true => exact advanceTo_level_change hen (hcmp hen) hch (hn hen) hne
    | false => simp [advanceTo_stopped time s hen] at hne

/-! ### The TX unit and its operations -/

/-- Outside RUN the channel is stopped and the index is any of its range (R55). -/
theorem txInvariant_of_stopped {s : State} (u : UnitState) (hst : s.tx.state = u.code) (hu : u ≠ .run)
    (hen : s.ch.tmrEn = false) (hlo : -2 ≤ s.tx.bitIndex) (hhi : s.tx.bitIndex ≤ s.cfg.biMax)
    (hinv : s.ch.invB = s.tx.invert) : TxInvariant s := by
  have hne : s.tx.state ≠ UnitState.run.code := fun h => hu (UnitState.code_injective (hst ▸ h))
  refine ⟨?_, by simp [hen, hne], hlo, hhi, fun h => absurd h hne, by simp [hen], hinv⟩
  cases u with
  | idle => exact .inl hst
  | run => exact absurd rfl hu
  | stop => exact .inr (.inr hst)

/-- In RUN the channel runs with its compare event enabled, and the index is at most 64 (R55). -/
theorem txInvariant_of_running {s : State} (hc : s.cfg.CounterRange) (hst : s.tx.state = UnitState.run.code)
    (hen : s.ch.tmrEn = true) (hcmp : s.ch.cmpEn = true) (hlo : -2 ≤ s.tx.bitIndex) (hhi : s.tx.bitIndex ≤ 64)
    (hinv : s.ch.invB = s.tx.invert) : TxInvariant s := by
  have hmax := hc.1
  exact ⟨.inr (.inl hst), by simp [hen, hst], hlo, by omega, fun _ => hhi, fun _ => hcmp, hinv⟩

/-- A stopped channel's TX unit is in IDLE or STOP (R55). -/
theorem stopped_state_of_txInvariant {s : State} (h : TxInvariant s) (hen : s.ch.tmrEn = false) :
    ∃ u : UnitState, s.tx.state = u.code ∧ u ≠ .run := by
  obtain ⟨hst, hiff, -⟩ := h
  rcases hst with hst | hst | hst
  · exact ⟨.idle, hst, by decide⟩
  · simp [hiff.2 hst] at hen
  · exact ⟨.stop, hst, by decide⟩

theorem timerRegistersFit_reset (c : Config) : TimerRegistersFit c (Channel.reset c) :=
  ⟨timerWord_toNat_lt _ _, timerWord_toNat_lt _ _, timerWord_toNat_lt _ _, timerWord_toNat_lt _ _⟩

/-- A TX unit and a channel at their reset values meet their invariants (R56). -/
theorem invariant_of_reset_tx {s : State} (hwf : s.cfg.WellFormed) (hrx : RxInvariant s) (htx : s.tx = TxContext.reset)
    (hch : s.ch = Channel.reset s.cfg) (hline : LineInvariant s) : Invariant s := by
  have hmax := (counterRange_of_wellFormed hwf).1
  have hidx : s.tx.bitIndex = 0 := by rw [htx]; rfl
  refine ⟨hwf, hrx, ?_, ?_, hline⟩
  · exact txInvariant_of_stopped .idle (by rw [htx]; rfl) (by decide) (by rw [hch]; rfl) (by omega) (by omega)
      (by rw [hch, htx]; rfl)
  · exact channelInvariant_of_stopped (by rw [hch]; exact timerRegistersFit_reset _) (by rw [hch]; rfl)
      (by rw [hch]; rfl) (by rw [hch]; rfl)

/-- An RX context at its reset values meets its invariant (R56). -/
theorem rxInvariant_of_reset {s : State} (hwf : s.cfg.WellFormed) (h : s.rx = RxContext.reset) : RxInvariant s := by
  have hmax := (counterRange_of_wellFormed hwf).1
  have hidx : s.rx.bitIndex = 0 := by rw [h]; rfl
  exact ⟨by rw [h]; exact Nat.two_pow_pos _, by rw [h]; exact Nat.two_pow_pos _, by omega, by omega,
    .inl (by rw [h]; rfl)⟩

/-- The reset step keeps the invariant (R350). -/
theorem invariant_resetBlock {s : State} (hinv : Invariant s) : Invariant (resetBlock s) := by
  obtain ⟨hwf, -, -, -, hline⟩ := hinv
  exact invariant_of_reset_tx hwf (rxInvariant_of_reset hwf rfl) rfl rfl (lineInvariant_driveChannel _ hline)

/-- TX.INIT keeps the invariant (R251). -/
theorem invariant_txInit {s t : State} (hinv : Invariant s) (h : exec .txInit s = .next t) : Invariant t := by
  obtain ⟨hwf, hrx, -, -, hline⟩ := hinv
  cases h
  exact invariant_of_reset_tx hwf hrx rfl rfl (lineInvariant_driveChannel _ hline)

/-- TX.STOP keeps the invariant (R253). -/
theorem invariant_txStop {s t : State} (hinv : Invariant s) (h : exec .txStop s = .next t) : Invariant t := by
  obtain ⟨hwf, hrx, ⟨-, -, hlo, hhi, -, -, hpol⟩, ⟨hfit, -⟩, hline⟩ := hinv
  cases h
  exact ⟨hwf, hrx, txInvariant_of_stopped .stop rfl (by decide) rfl hlo hhi hpol,
    channelInvariant_of_stopped hfit rfl rfl rfl, lineInvariant_driveChannel _ hline⟩

/-- TX.SEND keeps the invariant: a period begins, with the index at -2 (R252, R316). -/
theorem invariant_txSend {f : Frame} {s t : State} (hinv : Invariant s) (h : exec (.txSend f) s = .next t) :
    Invariant t := by
  obtain ⟨hwf, hrx, -, ⟨⟨hper, hcc, -⟩, -⟩, hline⟩ := hinv
  have hidx : t.tx.bitIndex = -2 := by
    cases h
    exact startIndex_of_wellFormed hwf
  cases h
  refine ⟨hwf, hrx, ?_, ?_, lineInvariant_driveChannel _ (lineInvariant_driveChannel _ hline)⟩
  · exact txInvariant_of_running (counterRange_of_wellFormed hwf) rfl rfl rfl (by omega) (by omega) rfl
  · exact channelInvariant_of_begun ⟨hper, hcc, timerWord_toNat_lt _ _, timerWord_toNat_lt _ _⟩ rfl rfl rfl rfl

/-- TX.OVF's writes keep the invariant: the transmission ends at index 65, and before it the next period begins with an
index of at most 64 (R254, R315). -/
theorem invariant_overflowNow {s : State} (hinv : Invariant s) : Invariant s.overflowNow := by
  obtain ⟨hwf, hrx, htx, ⟨⟨hper, hcc, hperB, hccB⟩, hstop, hrun⟩, hline⟩ := hinv
  have ⟨_, hiff, hlo, _, h64, hcmp, hpol⟩ := htx
  obtain ⟨hdata, htail, -, -⟩ := frameShape_of_wellFormed hwf
  have hmax := (counterRange_of_wellFormed hwf).1
  have hn : satInc s.cfg s.tx.bitIndex = min (s.tx.bitIndex + 1) s.cfg.biMax :=
    satInc_of_counterRange (counterRange_of_wellFormed hwf) hlo
  have hnlo : -2 ≤ satInc s.cfg s.tx.bitIndex := by omega
  have hnhi : satInc s.cfg s.tx.bitIndex ≤ s.cfg.biMax := by omega
  rcases overflow_stops_or_goes_on s.cfg s.tx s.ch with ⟨-, e⟩ | ⟨h65, v, b, p, e, hb, hp⟩
  · have he : s.overflowNow = (s.setTx { s.tx with
          bitIndex := satInc s.cfg s.tx.bitIndex, state := UnitState.stop.code }).driveChannel s.now
        (timerDisable s.ch) := by simp [State.overflowNow, e]
    rw [he]
    exact ⟨hwf, hrx,
      txInvariant_of_stopped .stop rfl (by decide) rfl hnlo hnhi hpol,
      channelInvariant_of_stopped ⟨hper, hcc, hperB, hccB⟩ rfl rfl rfl,
      lineInvariant_driveChannel (s := s.setTx _) _ hline⟩
  · have hp' : p.toNat < 2 ^ s.cfg.tmrW := by
      rcases hp with rfl | ⟨us, rfl⟩
      · exact hperB
      · exact timerWord_toNat_lt _ _
    cases hen : s.ch.tmrEn with
    | false =>
      have he : s.overflowNow = (s.setTx { s.tx with
            bitIndex := satInc s.cfg s.tx.bitIndex, invert := v }).driveChannel s.now
          { s.ch with invB := b, perB := p } := by simp [State.overflowNow, e, hen]
      obtain ⟨u, hu, hne⟩ := stopped_state_of_txInvariant htx hen
      obtain ⟨hout, hdone⟩ := hstop hen
      rw [he]
      exact ⟨hwf, hrx,
        txInvariant_of_stopped u hu hne hen hnlo hnhi (hb hpol),
        channelInvariant_of_stopped ⟨hper, hcc, hp', hccB⟩ hen hout hdone,
        lineInvariant_driveChannel (s := s.setTx _) _ hline⟩
    | true =>
      have he : s.overflowNow = ((s.setTx { s.tx with
            bitIndex := satInc s.cfg s.tx.bitIndex, invert := v }).driveChannel s.now
          (latch { s.ch with invB := b, perB := p })).beginPeriod := by simp [State.overflowNow, e, hen]
      have hrunning := hiff.1 hen
      have hn64 : satInc s.cfg s.tx.bitIndex ≤ 64 := by
        have := h64 hrunning
        omega
      rw [he]
      exact ⟨hwf, hrx,
        txInvariant_of_running (counterRange_of_wellFormed hwf) hrunning hen (hcmp hen) hnlo hn64
          (hb hpol),
        channelInvariant_of_begun ⟨hp', hccB, hp', hccB⟩ hen rfl rfl rfl,
        lineInvariant_driveChannel (s := s.setTx _) _ hline⟩

/-- Time comes to the overflow's instant within the invariant (R315). -/
theorem invariant_atOverflow {s : State} (hinv : Invariant s) (hw : takesTime .txOvf s = true → s.edges = []) :
    Invariant s.atOverflow := by
  unfold State.atOverflow
  split
  case isFalse => exact hinv
  case isTrue hc =>
    obtain ⟨hen, hdue⟩ : s.ch.tmrEn = true ∧ compareDue s.ch = false := by simpa using hc
    have hnext := nextEventTime_of_not_due hdue
    refine invariant_advanceTo hinv (fun hlt => hw ?_) (fun _ => hnext.ge)
    exact (takesTime_eq_true_iff _ _).2 ⟨(channelNext_eq_some_iff _ _).2 ⟨hen, .inr ⟨hdue, rfl⟩⟩, hnext ▸ hlt⟩

/-- A compare event delivered at its instant is recorded within the invariant (R318). -/
theorem invariant_markCompared {s : State} (hinv : Invariant s) (hdue : compareDue s.ch = true)
    (hnow : s.periodStart + s.ch.cc.toNat ≤ s.now) : Invariant s.markCompared := by
  obtain ⟨hwf, hrx, htx, ⟨hfit, -, hrun⟩, hline⟩ := hinv
  obtain ⟨hen, -, hper, -⟩ := (compareDue_eq_true_iff _).1 hdue
  obtain ⟨hstart, hle, hout, -⟩ := hrun hen
  rw [nextEventTime_of_due hdue] at hle
  have hnext : nextEventTime s.markCompared = s.periodStart + s.ch.per.toNat :=
    nextEventTime_of_not_due (by simp [compareDue])
  refine ⟨hwf, hrx, htx, ⟨hfit, fun h => ?_, fun _ => ⟨hstart, ?_, hout, fun _ => ⟨hper, hnow⟩⟩⟩, hline⟩
  · simp [hen] at h
  · rw [hnext, State.markCompared_now]; omega

/-- Time comes to the compare event's instant, and its delivery is recorded, within the invariant (R318). -/
theorem invariant_atCompare {s : State} (hinv : Invariant s) (hw : takesTime .txCmp s = true → s.edges = []) :
    Invariant s.atCompare := by
  unfold State.atCompare
  split
  case isFalse => exact hinv
  case isTrue hdue =>
    have hnext := nextEventTime_of_due hdue
    have hch := advanceTo_ch_running (s.periodStart + s.ch.cc.toNat) s (compareDue_running hdue)
    have hadv : Invariant (s.advanceTo (s.periodStart + s.ch.cc.toNat)) := by
      refine invariant_advanceTo hinv (fun hlt => hw ?_) (fun _ => hnext.ge)
      exact (takesTime_eq_true_iff _ _).2
        ⟨(channelNext_eq_some_iff _ _).2 ⟨compareDue_running hdue, .inl ⟨hdue, rfl⟩⟩, hnext ▸ hlt⟩
    refine invariant_markCompared hadv ?_ ?_
    · rw [hch]; exact hdue
    · rw [hch, advanceTo_periodStart, advanceTo_now]; exact le_max_right _ _

/-- TX.CMP's load keeps the invariant (R255). -/
theorem invariant_loadCompare {s : State} (hinv : Invariant s) : Invariant s.loadCompare := by
  obtain ⟨hwf, hrx, htx, ⟨⟨hper, hcc, hperB, hccB⟩, hstop, hrun⟩, hline⟩ := hinv
  have hfit : (compareLoad s.cfg s.tx s.ch).ccB.toNat < 2 ^ s.cfg.tmrW := by
    rcases compareLoad_ccB s.cfg s.tx s.ch with h | ⟨us, h⟩
    · rw [h]; exact hccB
    · rw [h]; exact timerWord_toNat_lt _ _
  rw [State.loadCompare, compareLoad_eq]
  exact ⟨hwf, hrx, htx, ⟨⟨hper, hcc, hperB, hfit⟩, hstop, hrun⟩, lineInvariant_driveChannel _ hline⟩

/-! ### All operations, and the step -/

/-- An operation outside the TX unit keeps the invariant (R54). -/
theorem invariant_exec_of_not_tx {i : Instr} {s t : State} (hi : isTx i = false) (hinv : Invariant s)
    (h : exec i s = .next t) : Invariant t := by
  obtain ⟨hwf, hrx, htx, hch, hline⟩ := hinv
  have hrx' := rxInvariant_of_rxWrites (counterRange_of_wellFormed hwf) hrx (exec_rxWrites h)
  obtain ⟨rx, r, rfl⟩ := exec_next_of_not_tx hi h
  exact ⟨hwf, hrx', htx, hch, hline⟩

/-- Every operation keeps the invariant, where one that lets time go by runs with no transition on its way (R320). -/
theorem invariant_exec {i : Instr} {s t : State} (hinv : Invariant s) (hw : takesTime i s = true → s.edges = [])
    (h : exec i s = .next t) : Invariant t := by
  cases hi : isTx i with
  | false => exact invariant_exec_of_not_tx hi hinv h
  | true =>
    cases i with
    | txInit => exact invariant_txInit hinv h
    | txSend f => exact invariant_txSend hinv h
    | txStop => exact invariant_txStop hinv h
    | txOvf =>
      rw [exec_txOvf] at h
      cases h
      exact invariant_overflowNow (invariant_atOverflow hinv hw)
    | txCmp =>
      rw [exec_txCmp] at h
      cases h
      exact invariant_loadCompare (invariant_atCompare hinv hw)
    | _ => cases hi

/-- The invariant does not speak of the turns, and of the transitions on their way it asks the same of each. -/
theorem invariant_of_fewer_edges {s : State} {p : List Turn} {es : List LineEdge} (hinv : Invariant s)
    (hes : es <:+ s.edges) : Invariant { s with pending := p, edges := es } := by
  obtain ⟨hwf, hrx, htx, hch, hline⟩ := hinv
  exact ⟨hwf, hrx, htx, hch, fun e he => hline e (hes.subset he)⟩

/-- Whatever a step does keeps the invariant. -/
theorem StepEffect.invariant {s t : State} (hinv : Invariant s) (h : StepEffect s t) : Invariant t := by
  cases h with
  | operation i p es hes hw h => exact invariant_exec (invariant_of_fewer_edges hinv hes) hw h
  | noOperation p r h => subst h; exact hinv
  | clock p time he hn h => subst h; exact invariant_advanceTo (s := { s with pending := p }) hinv he hn
  | reset p h => subst h; exact invariant_resetBlock (s := { s with pending := p }) hinv

/-- Settles O60: a step does one of `StepEffect`'s four things, and each keeps the invariant. -/
theorem stepKeepsTheInvariant : Obligations.StepKeepsTheInvariant := by
  intro s t hinv h
  exact (step_effect h).2.invariant hinv

/-- Settles O59: after reset the units hold the values `invariant_of_reset_tx` and `rxInvariant_of_reset` speak of, and no
transition is on its way. -/
theorem invariantAtReset : Obligations.InvariantAtReset := by
  have hall (c : Config) (hwf : c.WellFormed) : Invariant (State.resetIn c) :=
    invariant_of_reset_tx hwf (rxInvariant_of_reset hwf rfl) rfl rfl (fun _ he => by cases he)
  exact ⟨hall Config.nominal (by decide), hall⟩

end Sys2Proof.Machine

namespace Sys2Proof.Machine

open Sys2Proof

/-! ## The registers and their writers -/

/-! ### State registers hold the values of R45 -/

/-- A classified pulse leaves `rx_state` or writes a state's code (R143). -/
theorem classify_state {c : Config} {w : PulseWidth} {rx rx' : RxContext} (h : classify c w rx = .ok rx') :
    rx'.state = rx.state ∨ ∃ u : UnitState, rx'.state = u.code := by
  rcases classify_cases h with ⟨-, rfl⟩ | ⟨-, -, -, rfl⟩ | ⟨-, -, -, rfl⟩ | ⟨-, -, rfl⟩
  · exact .inr ⟨.run, rfl⟩
  · exact .inr ⟨.idle, rfl⟩
  · exact .inl rfl
  · exact .inl rfl

/-- An operation leaves `rx_state` or writes a state's code (R45). -/
theorem exec_rx_state {i : Instr} {s t : State} (h : exec i s = .next t) :
    t.rx.state = s.rx.state ∨ ∃ u : UnitState, t.rx.state = u.code := by
  cases exec_rxWrites h with
  | nothing h => exact .inl (by rw [h])
  | rise x _ h => exact .inl (by rw [h]; rfl)
  | ack _ h => exact .inl (by rw [h])
  | discarded x _ h => exact .inl (by rw [h, recordedFall_state])
  | classified w _ _ h => simpa using classify_state h

/-- The overflow event leaves `tx_state` or writes STOP (R254). -/
theorem overflow_state (c : Config) (tx : TxContext) (ch : Channel) :
    (overflow c tx ch).1.state = tx.state ∨ (overflow c tx ch).1.state = UnitState.stop.code := by
  rcases overflow_stops_or_goes_on c tx ch with ⟨-, e⟩ | ⟨-, v, b, p, e, -⟩
  · exact .inr (by rw [e])
  · exact .inl (by rw [e])

/-- An operation leaves `tx_state` or writes a state's code (R45). -/
theorem exec_tx_state {i : Instr} {s t : State} (h : exec i s = .next t) :
    t.tx.state = s.tx.state ∨ ∃ u : UnitState, t.tx.state = u.code := by
  cases hi : isTx i with
  | false => obtain ⟨rx, r, rfl⟩ := exec_next_of_not_tx hi h; exact .inl rfl
  | true =>
    cases i with
    | txInit => cases h; exact .inr ⟨.idle, rfl⟩
    | txSend f => cases h; exact .inr ⟨.run, rfl⟩
    | txStop => cases h; exact .inr ⟨.stop, rfl⟩
    | txOvf =>
      rw [exec_txOvf] at h
      cases h
      rw [State.answer_tx, State.overflowNow_tx, State.atOverflow_cfg, State.atOverflow_tx]
      exact (overflow_state s.cfg s.tx s.atOverflow.ch).imp_right fun e => ⟨.stop, e⟩
    | txCmp => rw [exec_txCmp] at h; cases h; exact .inl (by simp [State.loadCompare])
    | _ => cases hi

/-- A register that is left or given a state's code holds 3 only where it did. -/
theorem eq_three_of_left_or_code {a b : BitVec 2} (h : b = a ∨ ∃ u : UnitState, b = u.code) (h3 : b = 3#2) :
    a = 3#2 := by
  rcases h with h | ⟨u, h⟩
  · exact h ▸ h3
  · exact absurd (h ▸ h3) u.code_ne_three

/-- No operation writes the reserved value (R45). -/
theorem exec_keeps_legal {i : Instr} {s t : State} (h : exec i s = .next t) :
    (t.rx.state = 3#2 → s.rx.state = 3#2) ∧ (t.tx.state = 3#2 → s.tx.state = 3#2) :=
  ⟨eq_three_of_left_or_code (exec_rx_state h), eq_three_of_left_or_code (exec_tx_state h)⟩

/-- Whatever a step does keeps the state registers legal (R45). -/
theorem StepEffect.legal {s t : State} (hs : s.rx.state ≠ 3#2 ∧ s.tx.state ≠ 3#2) (h : StepEffect s t) :
    t.rx.state ≠ 3#2 ∧ t.tx.state ≠ 3#2 := by
  cases h with
  | operation i p es hes hw h =>
    obtain ⟨hrx, htx⟩ := exec_keeps_legal h
    exact ⟨fun e => hs.1 (hrx e), fun e => hs.2 (htx e)⟩
  | noOperation p r h => subst h; exact hs
  | clock p time he hn h => subst h; simpa using hs
  | reset p h => subst h; exact ⟨UnitState.idle.code_ne_three, UnitState.idle.code_ne_three⟩

/-- A step faults where it finds the reserved value (R45). -/
theorem step_faults_of_reserved {s : State} (h : s.rx.state = 3#2 ∨ s.tx.state = 3#2) : ∃ e, step s = .fault e := by
  cases hr : reservedState s with
  | some e => exact ⟨e, step_of_reserved hr⟩
  | none =>
    obtain ⟨hrx, htx⟩ := (reservedState_eq_none_iff s).1 hr
    exact absurd h (by simp [hrx, htx])

/-- RX.STATUS faults on the reserved value (R45). -/
theorem exec_rxStatus_of_reserved {s : State} (h : s.rx.state = 3#2) :
    exec .rxStatus s = .fault .reservedRxState := by
  simp only [exec, execRxStatus, (UnitState.ofCode_eq_none_iff _).2 h]

/-- RX.PULSE with a width that is no marker faults on the reserved value (R45). -/
theorem exec_rxPulse_of_reserved {s : State} {w : PulseWidth} (h : s.rx.state = 3#2) (hw : w.toNat ≤ s.cfg.markerMin) :
    exec (.rxPulse w) s = .fault .reservedRxState := by
  have hm : isMarker s.cfg (lowBits s.cfg.pwW w) = false := by
    rw [← Bool.not_eq_true, isMarker_eq_true_iff, lowBits_toNat, not_lt]
    exact (Nat.mod_le _ _).trans hw
  simp only [exec, execRxPulse, classifyWidth, classify_error_iff.2 ⟨hm, h, rfl⟩, finishRx]

/-- Settles O12: a step finds the value before anything else, and what an operation or a reset writes into a state register
is a state's code. -/
theorem reservedStateValueFaults : Obligations.ReservedStateValueFaults :=
  ⟨⟨rfl, rfl, rfl⟩, fun _ h => step_faults_of_reserved h,
    fun _ h => ⟨exec_rxStatus_of_reserved h, fun _ hw => exec_rxPulse_of_reserved h hw⟩,
    fun _ _ _ h => exec_keeps_legal h,
    fun s _ h =>
      have ⟨hr, heff⟩ := step_effect h
      heff.legal ((reservedState_eq_none_iff s).1 hr)⟩

/-! ### The configuration -/

/-- Whatever a step does leaves the configuration and the wiring (R52). -/
theorem StepEffect.cfg_loopback {s t : State} (h : StepEffect s t) : t.cfg = s.cfg ∧ t.loopback = s.loopback := by
  cases h with
  | operation i p es hes hw h => exact (exec_cfg_loopback h :)
  | noOperation p r h => subst h; exact ⟨rfl, rfl⟩
  | clock p time he hn h => subst h; exact ⟨advanceTo_cfg _ _, advanceTo_loopback _ _⟩
  | reset p h => subst h; exact ⟨rfl, rfl⟩

/-- Settles O58: none of the four things a step can do writes them. -/
theorem configurationNeverChanges : Obligations.ConfigurationNeverChanges :=
  fun _ _ h => (step_effect h).2.cfg_loopback

/-! ### The end of reception -/

/-- A classified pulse ends RUN where it is a tail (R145). -/
theorem classify_ends_run {c : Config} {w : PulseWidth} {rx rx' : RxContext} (h : classify c w rx = .ok rx')
    (hrun : rx.state = UnitState.run.code) (hend : rx'.state ≠ UnitState.run.code) :
    isMarker c w = false ∧ isTail c w rx.bitIndex = true ∧
      rx' = { rx with done := true, state := UnitState.idle.code } := by
  rcases classify_cases h with ⟨-, rfl⟩ | ⟨hm, -, ht, rfl⟩ | ⟨-, -, -, rfl⟩ | ⟨-, -, rfl⟩
  · exact absurd rfl hend
  · exact ⟨hm, ht, rfl⟩
  · exact absurd hrun hend
  · exact absurd hrun hend

/-- A classified pulse leaves `rx_done`, or it is a tail: it sets the flag and takes RUN to IDLE (R145). -/
theorem classify_done {c : Config} {w : PulseWidth} {rx rx' : RxContext} (h : classify c w rx = .ok rx') :
    rx'.done = rx.done ∨ (rx'.done = true ∧ rx.state = UnitState.run.code ∧ rx'.state = UnitState.idle.code) := by
  rcases classify_cases h with ⟨-, rfl⟩ | ⟨-, hs, -, rfl⟩ | ⟨-, -, -, rfl⟩ | ⟨-, -, rfl⟩
  · exact .inl rfl
  · exact .inr ⟨rfl, hs, rfl⟩
  · exact .inl rfl
  · exact .inl rfl

/-- An operation that takes `rx_state` out of RUN has given the classifier a tail (R145, R359). -/
theorem exec_ends_run {i : Instr} {s t : State} (h : exec i s = .next t) (hrun : s.rx.state = UnitState.run.code)
    (hend : t.rx.state ≠ UnitState.run.code) :
    isEdgeEvent i = true ∧ ∃ w, forwardedWidth i s = some w ∧ isMarker s.cfg w = false ∧
      isTail s.cfg w s.rx.bitIndex = true ∧
      t.rx = { recordedFall s.cfg i s.rx with done := true, state := UnitState.idle.code } := by
  cases exec_rxWrites h with
  | nothing h => exact absurd (by rw [h, hrun]) hend
  | rise x _ h => exact absurd (by rw [h]; exact hrun) hend
  | ack _ h => exact absurd (by rw [h]; exact hrun) hend
  | discarded x _ h => exact absurd (by rw [h, recordedFall_state, hrun]) hend
  | classified w hi hw h =>
    obtain ⟨hm, ht, e⟩ := classify_ends_run h (by rw [recordedFall_state, hrun]) hend
    exact ⟨hi, w, hw, hm, by simpa only [recordedFall_bitIndex] using ht, e⟩

/-- An operation leaves `rx_done`, or it is a tail's, or RX.ACK's (R34). -/
theorem exec_done {i : Instr} {s t : State} (h : exec i s = .next t) :
    t.rx.done = s.rx.done ∨
    (t.rx.done = true ∧ s.rx.state = UnitState.run.code ∧ t.rx.state = UnitState.idle.code) ∨
    (i = .rxAck ∧ t.rx.done = false) := by
  cases exec_rxWrites h with
  | nothing h => exact .inl (by rw [h])
  | rise x _ h => exact .inl (by rw [h]; rfl)
  | ack hi h => exact .inr (.inr ⟨hi, by rw [h]⟩)
  | discarded x _ h => exact .inl (by rw [h, recordedFall_done])
  | classified w _ _ h => simpa using (classify_done h).imp_right Or.inl

/-- Settles O17: the classifier's tail rule is the one way out of RUN and the one setter of `rx_done`. -/
theorem onlyATailEndsReception : Obligations.OnlyATailEndsReception := by
  intro i s t h
  refine ⟨fun hrun hend => ?_, fun hd hd' => ?_, fun hd hd' => ?_⟩
  · obtain ⟨hi, w, hw, hm, ht, e⟩ := exec_ends_run h hrun hend
    obtain ⟨hmax, hlast⟩ := (isTail_eq_true_iff _ _ _).1 ht
    have hmin : ¬ s.cfg.markerMin < w.toNat := by rw [← isMarker_eq_true_iff, hm]; decide
    refine ⟨hi, ⟨w, hw, hmax, not_lt.1 hmin⟩, hlast, ?_, ?_, ?_, ?_⟩
    · rw [e]; rfl
    · rw [e]
    · rw [e]; exact recordedFall_frame _ _ _
    · rw [e]; exact recordedFall_bitIndex _ _ _
  · rcases exec_done h with e | ⟨-, hrun, hidle⟩ | ⟨-, e⟩
    · rw [e, hd] at hd'; cases hd'
    · exact ⟨hrun, hidle⟩
    · rw [e] at hd'; cases hd'
  · rcases exec_done h with e | ⟨e, -⟩ | ⟨hi, -⟩
    · rw [e, hd] at hd'; cases hd'
    · rw [e] at hd'; cases hd'
    · exact hi

end Sys2Proof.Machine

namespace Sys2Proof.Machine

open Sys2Proof

/-! ### Each register's writers -/

/-- A classified pulse writes no timestamp (R143). -/
theorem classify_timestamps {c : Config} {w : PulseWidth} {rx rx' : RxContext} (h : classify c w rx = .ok rx') :
    rx'.lastRise = rx.lastRise ∧ rx'.riseValid = rx.riseValid ∧ rx'.lastFall = rx.lastFall := by
  rcases classify_cases h with ⟨-, rfl⟩ | ⟨-, -, -, rfl⟩ | ⟨-, -, -, rfl⟩ | ⟨-, -, rfl⟩ <;> exact ⟨rfl, rfl, rfl⟩

/-- The frame, the index and the state change by a classified width only (R53). -/
theorem exec_frame_index_state {i : Instr} {s t : State} (h : exec i s = .next t) :
    (∃ w, forwardedWidth i s = some w) ∨
    (t.rx.frame = s.rx.frame ∧ t.rx.bitIndex = s.rx.bitIndex ∧ t.rx.state = s.rx.state) := by
  cases exec_rxWrites h with
  | nothing h => rw [h]; exact .inr ⟨rfl, rfl, rfl⟩
  | rise x _ h => rw [h]; exact .inr ⟨rfl, rfl, rfl⟩
  | ack _ h => rw [h]; exact .inr ⟨rfl, rfl, rfl⟩
  | discarded x _ h =>
    rw [h]
    exact .inr ⟨recordedFall_frame _ _ _, recordedFall_bitIndex _ _ _, recordedFall_state _ _ _⟩
  | classified w _ hw _ => exact .inl ⟨w, hw⟩

/-- The flag changes by a classified width or RX.ACK only (R53). -/
theorem exec_done_writers {i : Instr} {s t : State} (h : exec i s = .next t) :
    (∃ w, forwardedWidth i s = some w) ∨ i = .rxAck ∨ t.rx.done = s.rx.done := by
  cases exec_rxWrites h with
  | nothing h => rw [h]; exact .inr (.inr rfl)
  | rise x _ h => rw [h]; exact .inr (.inr rfl)
  | ack hi _ => exact .inr (.inl hi)
  | discarded x _ h => rw [h]; exact .inr (.inr (recordedFall_done _ _ _))
  | classified w _ hw _ => exact .inl ⟨w, hw⟩

/-- The rising timestamp changes by RX.RISE only (R53). -/
theorem exec_rise_writers {i : Instr} {s t : State} (h : exec i s = .next t) :
    (∃ x, i = .rxRise x) ∨ (t.rx.lastRise = s.rx.lastRise ∧ t.rx.riseValid = s.rx.riseValid) := by
  cases exec_rxWrites h with
  | nothing h => rw [h]; exact .inr ⟨rfl, rfl⟩
  | rise x hi _ => exact .inl ⟨x, hi⟩
  | ack _ h => rw [h]; exact .inr ⟨rfl, rfl⟩
  | discarded x _ h => rw [h]; exact .inr ⟨recordedFall_lastRise _ _ _, recordedFall_riseValid _ _ _⟩
  | classified w _ _ h =>
    obtain ⟨hr, hv, -⟩ := classify_timestamps h
    exact .inr ⟨hr.trans (recordedFall_lastRise _ _ _), hv.trans (recordedFall_riseValid _ _ _)⟩

/-- The falling timestamp changes by RX.FALL only (R53). -/
theorem exec_fall_writers {i : Instr} {s t : State} (h : exec i s = .next t) (hne : t.rx.lastFall ≠ s.rx.lastFall) :
    ∃ x, i = .rxFall x := by
  cases exec_rxWrites h with
  | nothing h => exact absurd (by rw [h]) hne
  | rise x _ h => exact absurd (by rw [h]; rfl) hne
  | ack _ h => exact absurd (by rw [h]) hne
  | discarded x hi _ => exact ⟨x, hi⟩
  | classified w _ _ h =>
    obtain ⟨-, -, hf⟩ := classify_timestamps h
    exact recordedFall_lastFall_ne (hf ▸ hne)

/-- What TX.OVF writes of the TX unit and the channel (R53, R254, R315). -/
theorem exec_txOvf_writes {s t : State} (h : exec .txOvf s = .next t) :
    t.tx.frame = s.tx.frame ∧ t.ch.cmpEn = s.ch.cmpEn ∧ t.ch.ccB = s.ch.ccB ∧
    (s.ch.tmrEn = false → t.ch.per = s.ch.per ∧ t.ch.cc = s.ch.cc ∧ t.ch.inv = s.ch.inv) := by
  rw [exec_txOvf] at h
  cases h
  rw [State.answer_tx, State.answer_ch, State.overflowNow_tx, State.overflowNow_ch, State.atOverflow_cfg,
    State.atOverflow_tx, State.atOverflow_ch]
  rcases overflow_stops_or_goes_on s.cfg s.tx { s.ch with tmrOut := s.atOverflow.ch.tmrOut } with
    ⟨-, e⟩ | ⟨-, v, b, p, e, -⟩
  · simp [e]
  · rw [e]
    cases hen : s.ch.tmrEn <;> simp

/-- What TX.CMP writes of the TX unit and the channel (R53, R255, R318). -/
theorem exec_txCmp_writes {s t : State} (h : exec .txCmp s = .next t) :
    t.tx = s.tx ∧ ∃ d o x, t.ch = { s.ch with cmpDone := d, tmrOut := o, ccB := x } := by
  rw [exec_txCmp] at h
  cases h
  obtain ⟨o, d, hch⟩ : ∃ o d, s.atCompare.ch = { s.ch with tmrOut := o, cmpDone := d } := ⟨_, _, s.atCompare_ch⟩
  refine ⟨s.atCompare_tx, d, o, (compareLoad s.atCompare.cfg s.atCompare.tx s.atCompare.ch).ccB, ?_⟩
  rw [State.answer_ch, State.loadCompare, State.driveChannel_ch, compareLoad_eq, hch]

/-- R53's rows for the TX unit and the channel. -/
theorem exec_tx_writers {i : Instr} {s t : State} (hi : isTx i = true) (h : exec i s = .next t) :
    (t.tx.frame ≠ s.tx.frame → i = .txInit ∨ ∃ f, i = .txSend f) ∧
    (t.tx.bitIndex ≠ s.tx.bitIndex → i = .txInit ∨ i = .txOvf ∨ ∃ f, i = .txSend f) ∧
    (t.tx.state ≠ s.tx.state → i = .txInit ∨ i = .txOvf ∨ i = .txStop ∨ ∃ f, i = .txSend f) ∧
    (t.tx.invert ≠ s.tx.invert → i = .txInit ∨ i = .txOvf ∨ ∃ f, i = .txSend f) ∧
    (t.ch.tmrEn ≠ s.ch.tmrEn → i = .txInit ∨ i = .txOvf ∨ i = .txStop ∨ ∃ f, i = .txSend f) ∧
    (t.ch.cmpEn ≠ s.ch.cmpEn → i = .txInit ∨ ∃ f, i = .txSend f) ∧
    (t.ch.perB ≠ s.ch.perB → i = .txInit ∨ i = .txOvf ∨ ∃ f, i = .txSend f) ∧
    (t.ch.ccB ≠ s.ch.ccB → i = .txInit ∨ i = .txCmp ∨ ∃ f, i = .txSend f) ∧
    (t.ch.invB ≠ s.ch.invB → i = .txInit ∨ i = .txOvf ∨ ∃ f, i = .txSend f) ∧
    (t.ch.per ≠ s.ch.per ∨ t.ch.cc ≠ s.ch.cc ∨ t.ch.inv ≠ s.ch.inv →
      i = .txInit ∨ (i = .txOvf ∧ s.ch.tmrEn = true)) := by
  cases i with
  | txInit => simp
  | txSend f => cases h; simp [sendLoads]
  | txStop => cases h; simp
  | txOvf =>
    obtain ⟨hf, hc, hb, hoff⟩ := exec_txOvf_writes h
    cases hen : s.ch.tmrEn with
    | true => simp [hf, hc, hb]
    | false =>
      obtain ⟨hp, hcc, hv⟩ := hoff hen
      simp [hf, hc, hb, hp, hcc, hv]
  | txCmp =>
    obtain ⟨htx, d, o, x, hch⟩ := exec_txCmp_writes h
    simp [htx, hch]
  | _ => cases hi

/-- Settles O49: the RX rows by what an operation can write into the RX context, the TX and channel rows by operation. -/
theorem registersHaveTheirWritersOnly : Obligations.RegistersHaveTheirWritersOnly := by
  intro i s t h
  have hfis := exec_frame_index_state h
  have hd := exec_done_writers h
  have hr := exec_rise_writers h
  refine ⟨fun hne => hfis.resolve_right fun e => hne e.1, fun hne => hfis.resolve_right fun e => hne e.2.1,
    fun hne => hfis.resolve_right fun e => hne e.2.2, fun hne => ?_, fun hne => hr.resolve_right fun e => ?_,
    exec_fall_writers h, ?_⟩
  · exact hd.imp_right fun hd => hd.resolve_right hne
  · exact hne.elim (fun hne => hne e.1) fun hne => hne e.2
  · cases hi : isTx i with
    | true =>
      obtain ⟨h1, h2, h3, h4, h5, h6, h7, h8, h9, h10⟩ := exec_tx_writers hi h
      exact ⟨h1, h2, h3, h4, h5, h6, fun _ => rfl, h7, h8, h9, h10, fun _ => rfl⟩
    | false =>
      obtain ⟨rx, r, rfl⟩ := exec_next_of_not_tx hi h
      simp

/-! ### The units do not see each other -/

/-- The clock runs the same whatever the RX context is (R57). -/
theorem advanceTo_setRx (v : RxContext) (time : Nat) (s : State) :
    (s.setRx v).advanceTo time = (s.advanceTo time).setRx v := by
  unfold State.advanceTo
  dsimp only
  rw [apply_ite (State.setRx v)]
  rfl

theorem atOverflow_setRx (v : RxContext) (s : State) : (s.setRx v).atOverflow = s.atOverflow.setRx v := by
  unfold State.atOverflow
  rw [apply_ite (State.setRx v), ← advanceTo_setRx]
  rfl

theorem overflowNow_setRx (v : RxContext) (s : State) : (s.setRx v).overflowNow = s.overflowNow.setRx v := by
  unfold State.overflowNow
  rw [apply_ite (State.setRx v)]
  rfl

theorem atCompare_setRx (v : RxContext) (s : State) : (s.setRx v).atCompare = s.atCompare.setRx v := by
  have hmark (u : State) : u.markCompared.setRx v = (u.setRx v).markCompared := rfl
  unfold State.atCompare
  rw [apply_ite (State.setRx v), hmark, ← advanceTo_setRx]
  rfl

/-- A TX operation does the same whatever the RX context is (R57). -/
theorem exec_tx_setRx {i : Instr} {s t : State} (v : RxContext) (hi : isTx i = true) (h : exec i s = .next t) :
    exec i (s.setRx v) = .next (t.setRx v) := by
  cases i with
  | txInit => cases h; rfl
  | txSend f => cases h; rfl
  | txStop => cases h; rfl
  | txOvf =>
    rw [exec_txOvf] at h ⊢
    cases h
    rw [atOverflow_setRx, overflowNow_setRx]
    rfl
  | txCmp =>
    rw [exec_txCmp] at h ⊢
    cases h
    rw [atCompare_setRx]
    rfl
  | _ => cases hi

/-- Settles O50: an RX operation is the write of an RX context that the configuration and the RX context settle, and a TX
operation commutes with any write of the RX context. -/
theorem unitsAreIndependent : Obligations.UnitsAreIndependent := by
  refine ⟨fun i s s' t hi hc hr h => ?_, fun i s t rx hi h => ⟨exec_tx_rx hi h, exec_tx_setRx rx hi h⟩⟩
  obtain ⟨rx, r, rfl, hsame⟩ := exec_rx hi h
  exact ⟨rfl, rfl, rfl, rfl, rfl, _, hsame s' hc hr, rfl, rfl⟩

/-! ### Answers and reset values -/

/-- A joined word as a number: the high part counts in steps of the low part's width (R11). -/
theorem toNat_append_eq_add {m n : Nat} (x : BitVec m) (y : BitVec n) : (x ++ y).toNat = x.toNat * 2 ^ n + y.toNat := by
  rw [BitVec.toNat_append, Nat.shiftLeft_eq, Nat.mul_comm, Nat.two_pow_add_eq_or_of_lt y.isLt]

/-- The status word as a number: the index's 8-bit pattern, the state, the flag (R46). -/
theorem rxStatusWord_toNat (b : Int) (st : BitVec 2) (d : Bool) :
    (rxStatusWord b st d).toNat = 256 * (b % 256).toNat + 2 * st.toNat + d.toNat := by
  have hd : (BitVec.ofBool d).toNat = d.toNat := by cases d <;> rfl
  have hb : (BitVec.ofInt 8 b).toNat = (b % 256).toNat := BitVec.toNat_ofInt b
  have h0 : (0 : BitVec 5).toNat = 0 := rfl
  rw [rxStatusWord, toNat_append_eq_add, toNat_append_eq_add, toNat_append_eq_add, hd, hb, h0]
  omega

/-- Settles O13: with a legal state RX.STATUS answers `rxStatusWord`. -/
theorem statusWordIsLaidOut : Obligations.StatusWordIsLaidOut := by
  intro s hs _ _
  refine ⟨rfl, rxStatusWord s.rx.bitIndex s.rx.state s.rx.done, ?_, rxStatusWord_toNat _ _ _⟩
  cases hu : UnitState.ofCode s.rx.state with
  | none => exact absurd ((UnitState.ofCode_eq_none_iff _).1 hu) hs
  | some u => simp only [exec, execRxStatus, hu]; rfl

/-- Settles O19: `exec_ly`, whose answer is the one write. -/
theorem layoutOperationsArePure : Obligations.LayoutOperationsArePure :=
  fun _ c hi => exec_ly c hi

/-- A marker period that fits the channel's registers is there after reset (R56). -/
theorem channelReset_of_timesFit {c : Config} (h : c.TimesFit) :
    Channel.reset c =
      { tmrEn := false, cmpEn := false, cmpDone := false
        per := BitVec.ofNat 16 c.markerPer, cc := BitVec.ofNat 16 c.markerOn, inv := false
        perB := BitVec.ofNat 16 c.markerPer, ccB := BitVec.ofNat 16 c.markerOn, invB := false
        tmrOut := false } := by
  obtain ⟨-, hper, hon, -⟩ := h
  simp only [Channel.reset, timerWord_of_fits hper, timerWord_of_fits hon]

/-- TX.INIT gives the TX unit and the channel their reset values (R56). -/
theorem exec_txInit_resets {s t : State} (h : exec .txInit s = .next t) :
    t.tx = TxContext.reset ∧ t.ch = Channel.reset s.cfg := by
  cases h
  exact ⟨rfl, rfl⟩

/-- Settles O55: the reset state's registers are R56's, and TX.INIT's. -/
theorem resetValues : Obligations.ResetValues := by
  refine ⟨by decide, fun c hfit => ⟨rfl, rfl, channelReset_of_timesFit hfit, fun s t hc h => ?_⟩⟩
  subst hc
  exact exec_txInit_resets h

end Sys2Proof.Machine

namespace Sys2Proof.Machine

open Sys2Proof

/-! ### Outside RUN -/

/-- A width brings a marker where it is one (R144). -/
theorem bringsMarker_of_forwardedWidth {i : Instr} {s : State} {w : PulseWidth} (hw : forwardedWidth i s = some w) :
    bringsMarker i s = isMarker s.cfg w := by
  simp only [bringsMarker, hw]

/-- An operation that forwards a width leaves what the classifier makes of it (R142, R149). -/
theorem exec_classifies {i : Instr} {s t : State} {w : PulseWidth} (hw : forwardedWidth i s = some w)
    (h : exec i s = .next t) : classify s.cfg w (recordedFall s.cfg i s.rx) = .ok t.rx := by
  cases i with
  | rxPulse x =>
    obtain ⟨rx, hrx, rfl⟩ := finishRx_eq_next_iff.1 h
    cases hw
    exact hrx
  | rxFall x =>
    obtain ⟨hlater, hx⟩ := Option.ite_none_right_eq_some.1 hw
    obtain ⟨rx, hrx, rfl⟩ := finishRx_eq_next_iff.1 h
    rw [recordFall_eq, if_pos hlater] at hrx
    cases hx
    exact hrx
  | _ => cases hw

/-- The RUN gate: outside RUN a pulse that is no marker is dropped (R147). -/
theorem classify_outside_run {c : Config} {w : PulseWidth} {rx rx' : RxContext} (h : classify c w rx = .ok rx')
    (hm : isMarker c w = false) (hs : rx.state ≠ UnitState.run.code) : rx' = rx := by
  rcases classify_cases h with ⟨hm', -⟩ | ⟨-, hrun, -⟩ | ⟨-, hrun, -⟩ | ⟨-, -, e⟩
  · rw [hm] at hm'; cases hm'
  · exact absurd hrun hs
  · exact absurd hrun hs
  · exact e

/-- IDLE and STOP are not RUN (R45). -/
theorem ne_run_of_idle_or_stop {r : BitVec 2} (h : r = 0 ∨ r = 2) : r ≠ UnitState.run.code := by
  rcases h with rfl | rfl <;> decide

/-- Settles O16: an operation that forwards no width writes none of the three registers, and a forwarded width that is no
marker is dropped by the RUN gate. -/
theorem completedFrameStandsUntilMarker : Obligations.CompletedFrameStandsUntilMarker := by
  intro i s t hst hno h
  cases hw : forwardedWidth i s with
  | none =>
    have hnone : ¬∃ w, forwardedWidth i s = some w := by simp [hw]
    obtain ⟨hf, hb, hs⟩ := (exec_frame_index_state h).resolve_left hnone
    exact ⟨hf, hb, hs, ((exec_done_writers h).resolve_left hnone).resolve_left⟩
  | some w =>
    have hm : isMarker s.cfg w = false := bringsMarker_of_forwardedWidth hw ▸ hno
    have hs : (recordedFall s.cfg i s.rx).state ≠ UnitState.run.code := by
      rw [recordedFall_state]
      exact ne_run_of_idle_or_stop hst
    have hrx : t.rx = recordedFall s.cfg i s.rx := classify_outside_run (exec_classifies hw h) hm hs
    simp [hrx]

end Sys2Proof.Machine

namespace Sys2Proof

/-! ## Command words -/

/-! ### Byte order, read and written -/

/-- The low `n` bytes of a number do not depend on what stands above them (R105). -/
theorem beBytes_mul_add (n a v : Nat) : beBytes n (a * 256 ^ n + v) = beBytes n v := by
  induction n generalizing a with
  | zero => rfl
  | succ n ih =>
    have hsplit : a * 256 ^ (n + 1) + v = a * 256 * 256 ^ n + v := by ring
    have hhead : BitVec.ofNat 8 ((a * 256 * 256 ^ n + v) / 256 ^ n) = BitVec.ofNat 8 (v / 256 ^ n) := by
      apply BitVec.eq_of_toNat_eq
      rw [Nat.mul_comm _ (256 ^ n), Nat.mul_add_div (by positivity), BitVec.toNat_ofNat, BitVec.toNat_ofNat]
      omega
    rw [hsplit, beBytes, beBytes, hhead, ih]

/-- A string of bytes is the one its number is written as. -/
theorem beBytes_beValue (bytes : List Byte) : beBytes bytes.length (beValue bytes) = bytes := by
  induction bytes with
  | nil => rfl
  | cons b rest ih =>
    have hhead : (b.toNat * 256 ^ rest.length + beValue rest) / 256 ^ rest.length = b.toNat := by
      rw [Nat.mul_comm, Nat.mul_add_div (by positivity), Nat.div_eq_of_lt (beValue_lt rest), Nat.add_zero]
    rw [beValue_cons, List.length_cons, beBytes, hhead, beBytes_mul_add, ih, BitVec.ofNat_toNat, BitVec.setWidth_eq]

/-- An operand register of `n` bytes holds what was read, and is written back as the bytes read. -/
theorem beBytes_operand {n w : Nat} {bytes : List Byte} (hw : 256 ^ n = 2 ^ w) (h : n ≤ bytes.length) :
    beBytes n (BitVec.ofNat w (beValue (bytes.take n))).toNat = bytes.take n := by
  have hlen : (bytes.take n).length = n := List.length_take_of_le h
  have hlt : beValue (bytes.take n) < 2 ^ w := by simpa only [hlen, hw] using beValue_lt (bytes.take n)
  simpa only [hlen, BitVec.toNat_ofNat, Nat.mod_eq_of_lt hlt] using beBytes_beValue (bytes.take n)

theorem takeOperand_of_le {n : Nat} {bytes : List Byte} (h : n ≤ bytes.length) :
    takeOperand n bytes = some (beValue (bytes.take n), bytes.drop n) := if_pos h

theorem takeOperand_of_lt {n : Nat} {bytes : List Byte} (h : bytes.length < n) : takeOperand n bytes = none :=
  if_neg (Nat.not_le.2 h)

/-! ### What each format reads -/

/-- A reader of the operands behind the opcode `op` uses `n` bytes, whatever they are, and refuses fewer; what it has used
is the encoder's word of the operation it reads (R106, R110). -/
def ReadsOperands (op : Byte) (n : Nat) (read : List Byte → Except DecodeError (Instr × List Byte)) : Prop :=
  ∀ bytes : List Byte,
    (bytes.length < n → read bytes = .error (.truncated op)) ∧
    (n ≤ bytes.length → ∃ i, read bytes = .ok (i, bytes.drop n) ∧ encode i = op :: bytes.take n)

theorem decodeN_readsOperands {op : Byte} {i : Instr} (henc : encode i = [op]) : ReadsOperands op 0 (decodeN i) :=
  fun _ => ⟨fun h => absurd h (Nat.not_lt_zero _), fun _ => ⟨i, rfl, henc⟩⟩

theorem decodeT_readsOperands {op : Byte} {k : BitVec 32 → Instr}
    (henc : ∀ t, encode (k t) = op :: beBytes 4 t.toNat) : ReadsOperands op 4 (decodeT op k) :=
  fun bytes => ⟨fun h => by rw [decodeT, takeOperand_of_lt h], fun h =>
    ⟨k (BitVec.ofNat 32 (beValue (bytes.take 4))), by rw [decodeT, takeOperand_of_le h],
      by rw [henc, beBytes_operand (by rfl) h]⟩⟩

theorem decodeF_readsOperands {op : Byte} {k : Frame → Instr}
    (henc : ∀ f, encode (k f) = op :: beBytes 8 f.toNat) : ReadsOperands op 8 (decodeF op k) :=
  fun bytes => ⟨fun h => by rw [decodeF, takeOperand_of_lt h], fun h =>
    ⟨k (BitVec.ofNat 64 (beValue (bytes.take 8))), by rw [decodeF, takeOperand_of_le h],
      by rw [henc, beBytes_operand (by rfl) h]⟩⟩

/-- Formats FI and FV at once: a frame, then an operand of `m` bytes in a register of `w` bits. -/
def decodeFrameThen (op : Byte) (m : Nat) {w : Nat} (k : Frame → BitVec w → Instr) (bytes : List Byte) :
    Except DecodeError (Instr × List Byte) :=
  match takeOperand 8 bytes with
  | none => .error (.truncated op)
  | some (f, rest) =>
    match takeOperand m rest with
    | none => .error (.truncated op)
    | some (v, rest') => .ok (k (BitVec.ofNat 64 f) (BitVec.ofNat w v), rest')

theorem decodeFI_eq (op : Byte) (k : Frame → Byte → Instr) : decodeFI op k = decodeFrameThen op 1 k := rfl

theorem decodeFV_eq (op : Byte) (k : Frame → Volts → Instr) : decodeFV op k = decodeFrameThen op 2 k := rfl

theorem decodeFrameThen_readsOperands {op : Byte} {m w : Nat} {k : Frame → BitVec w → Instr} (hw : 256 ^ m = 2 ^ w)
    (henc : ∀ f v, encode (k f v) = op :: (beBytes 8 f.toNat ++ beBytes m v.toNat)) :
    ReadsOperands op (8 + m) (decodeFrameThen op m k) := by
  refine fun bytes => ⟨fun h => ?_, fun h => ?_⟩
  · by_cases h₈ : bytes.length < 8
    · rw [decodeFrameThen, takeOperand_of_lt h₈]
    · have hm : (bytes.drop 8).length < m := by rw [List.length_drop]; omega
      rw [decodeFrameThen, takeOperand_of_le (Nat.not_lt.1 h₈)]
      dsimp only
      rw [takeOperand_of_lt hm]
  · have h₈ : 8 ≤ bytes.length := by omega
    have hm : m ≤ (bytes.drop 8).length := by rw [List.length_drop]; omega
    refine ⟨k (BitVec.ofNat 64 (beValue (bytes.take 8))) (BitVec.ofNat w (beValue ((bytes.drop 8).take m))), ?_, ?_⟩
    · rw [decodeFrameThen, takeOperand_of_le h₈]
      dsimp only
      rw [takeOperand_of_le hm, List.drop_drop]
    · rw [henc, beBytes_operand (by rfl) h₈, beBytes_operand hw hm, List.take_add]

/-! ### The tables -/

/-- The ranges of opcodes that R108 names are in no row of R107. -/
theorem formatOf_of_illegal {op : Byte}
    (h : op.toNat = 0x00 ∨ (0x07 ≤ op.toNat ∧ op.toNat ≤ 0x10) ∨ (0x17 ≤ op.toNat ∧ op.toNat ≤ 0x20) ∨
      (0x26 ≤ op.toNat ∧ op.toNat ≤ 0xFF)) : formatOf op = none := by
  unfold formatOf
  split
  case h_18 => rfl
  all_goals omega

/-- The decoder refuses by name an opcode without a format (R108). -/
theorem decodeOperands_of_formatOf_none {op : Byte} (h : formatOf op = none) (rest : List Byte) :
    decodeOperands op rest = .error (.illegalOp op) := by
  unfold decodeOperands
  split
  case h_18 => rfl
  all_goals
    rename_i hop
    simp only [formatOf, hop] at h
    cases h

/-- An opcode is settled by its number (R107). -/
theorem eq_ofNat_of_toNat_eq {op : Byte} {n : Nat} (h : op.toNat = n) : op = BitVec.ofNat 8 n := by
  rw [← h, BitVec.ofNat_toNat, BitVec.setWidth_eq]

/-- The decoder's table: behind a legal opcode it reads the operands of the opcode's format (R106, R107, R110). -/
theorem decodeOperands_readsOperands {op : Byte} {k : Format} (h : formatOf op = some k) :
    ReadsOperands op (operandBytes k) (decodeOperands op) := by
  unfold formatOf at h
  split at h <;> cases h
  all_goals
    rename_i hop
    obtain rfl := eq_ofNat_of_toNat_eq hop
  · exact decodeT_readsOperands (k := .rxRise) fun _ => rfl
  · exact decodeT_readsOperands (k := .rxFall) fun _ => rfl
  · exact decodeT_readsOperands (k := .rxPulse) fun _ => rfl
  · exact decodeN_readsOperands (i := .rxStatus) rfl
  · exact decodeN_readsOperands (i := .rxFrame) rfl
  · exact decodeN_readsOperands (i := .rxAck) rfl
  · exact decodeFrameThen_readsOperands (k := .lyBit) rfl fun _ _ => rfl
  · exact decodeFrameThen_readsOperands (k := .lyByte) rfl fun _ _ => rfl
  · exact decodeF_readsOperands (k := .lyDecode) fun _ => rfl
  · exact decodeF_readsOperands (k := .lyCsum) fun _ => rfl
  · exact decodeF_readsOperands (k := .lyCurrent) fun _ => rfl
  · exact decodeFrameThen_readsOperands (k := .lyPower) rfl fun _ _ => rfl
  · exact decodeN_readsOperands (i := .txInit) rfl
  · exact decodeF_readsOperands (k := .txSend) fun _ => rfl
  · exact decodeN_readsOperands (i := .txStop) rfl
  · exact decodeN_readsOperands (i := .txOvf) rfl
  · exact decodeN_readsOperands (i := .txCmp) rfl

/-! ### The round trips -/

/-- Settles O1: each operation's word is read back by the reader of its format. -/
theorem decodeReadsEveryEncodedOperation : Obligations.DecodeReadsEveryEncodedOperation := by
  intro i rest
  cases i with
  | rxRise t => exact decodeT_beBytes 0x01 .rxRise t rest
  | rxFall t => exact decodeT_beBytes 0x02 .rxFall t rest
  | rxPulse w => exact decodeT_beBytes 0x03 .rxPulse w rest
  | rxStatus => rfl
  | rxFrame => rfl
  | rxAck => rfl
  | lyBit f j => exact decodeFI_beBytes 0x11 .lyBit f j rest
  | lyByte f j => exact decodeFI_beBytes 0x12 .lyByte f j rest
  | lyDecode f => exact decodeF_beBytes 0x13 .lyDecode f rest
  | lyCsum f => exact decodeF_beBytes 0x14 .lyCsum f rest
  | lyCurrent f => exact decodeF_beBytes 0x15 .lyCurrent f rest
  | lyPower f v => exact decodeFV_beBytes 0x16 .lyPower f v rest
  | txInit => rfl
  | txSend f => exact decodeF_beBytes 0x22 .txSend f rest
  | txStop => rfl
  | txOvf => rfl
  | txCmp => rfl

/-- Settles O2: a string that decodes begins with a legal opcode and has its operand bytes, and the encoder's word of what
is read from these is the bytes used. -/
theorem onlyTheEncodedWordDecodes : Obligations.OnlyTheEncodedWordDecodes := by
  intro bytes rest i h
  cases bytes with
  | nil => cases h
  | cons op operands =>
    rw [decode_cons] at h
    cases hk : formatOf op with
    | none => rw [decodeOperands_of_formatOf_none hk] at h; cases h
    | some k =>
      obtain ⟨hshort, hlong⟩ := decodeOperands_readsOperands hk operands
      rcases Nat.lt_or_ge operands.length (operandBytes k) with hlt | hge
      · rw [hshort hlt] at h; cases h
      · obtain ⟨i', hread, henc⟩ := hlong hge
        rw [hread] at h
        cases h
        rw [henc, List.cons_append, List.take_append_drop]

/-- Settles O4: the reader of the opcode's format uses its operand bytes, and refuses fewer. -/
theorem lengthFollowsFromTheOpcode : Obligations.LengthFollowsFromTheOpcode := by
  intro op k rest hk
  obtain ⟨hshort, hlong⟩ := decodeOperands_readsOperands hk rest
  refine ⟨hshort, fun h => (hlong h).imp fun i hi => hi.1, ?_⟩
  cases k <;> simp [operandBytes]

/-- Settles O5: each word is the encoder's word of its operation. -/
theorem specWordsDecode : Obligations.SpecWordsDecode :=
  ⟨decodeReadsEveryEncodedOperation (.rxPulse 450) [], decodeReadsEveryEncodedOperation (.rxRise 4294967000) [],
    decodeReadsEveryEncodedOperation (.lyBit 0x0F1234D01A2B036D 64) [],
    decodeReadsEveryEncodedOperation (.lyPower 0x0F1234D01A2B036D 240) [],
    decodeReadsEveryEncodedOperation (.txSend 0x0123456789ABCDEF) [], decodeReadsEveryEncodedOperation .txCmp []⟩

end Sys2Proof

namespace Sys2Proof.Machine

open Sys2Proof

/-! ## Steps that take a command word -/

/-- Whether a command's operation waits (R308 (d), R320). -/
theorem commandWaits_of_decode_ok {a : Agent} {bytes more : List Byte} {i : Instr} (s : State)
    (hd : decode bytes = .ok (i, more)) :
    commandWaits a bytes s = (mayIssue a i s && (isLaterEdge a i || takesTime i s)) := by
  simp only [commandWaits, hd]

/-- A string of bytes that begins with no command waits for nothing. -/
theorem commandWaits_of_decode_error {a : Agent} {bytes : List Byte} {e : DecodeError} (s : State)
    (hd : decode bytes = .error e) : commandWaits a bytes s = false := by
  simp only [commandWaits, hd]

/-- A command that need not wait is taken. -/
theorem turnWaits_of_commandWaits_false {a : Agent} {bytes : List Byte} {s : State}
    (h : commandWaits a bytes s = false) : turnWaits (.command a bytes) s = false := by
  simp only [turnWaits, h, Bool.and_false]

/-- A command that waits does so where a transition is on its way. -/
theorem turnWaits_of_commandWaits {a : Agent} {bytes : List Byte} {s : State} {e : LineEdge} {more : List LineEdge}
    (h : commandWaits a bytes s = true) (he : s.edges = e :: more) : turnWaits (.command a bytes) s = true := by
  simp only [turnWaits, h, he, List.isEmpty_cons, Bool.not_false, Bool.and_self]

/-- An illegal opcode is answered, and nothing is run (R108). -/
theorem runCommand_of_illegal {a : Agent} {bytes : List Byte} {op : Byte} (s : State)
    (hd : decode bytes = .error (.illegalOp op)) : runCommand a bytes s = .next (s.answer (.illegalOp op)) := by
  simp only [runCommand, hd]

/-- A decoded operation that its agent may issue is run, with the bytes after it as the agent's next turn (R110, R312). -/
theorem runCommand_of_decode_ok {a : Agent} {bytes more : List Byte} {i : Instr} {s : State}
    (hd : decode bytes = .ok (i, more)) (hi : mayIssue a i (s.pushBytes a more) = true) :
    runCommand a bytes s = exec i (s.pushBytes a more) := by
  simp only [runCommand, hd, issue, hi, if_true]

/-- The bytes after a command, where there are any, go in front of the turns that are left (R110). -/
theorem pushBytes_pending (a : Agent) (more : List Byte) (s : State) (rest : List Turn) :
    ({ s with pending := rest }).pushBytes a more =
      { s with pending := if more = [] then rest else .command a more :: rest } := by
  cases more <;> rfl

/-- Settles O3: the opcode has no format, so the word does not decode, and the turn that holds it waits for nothing. -/
theorem illegalOpcodeIsRefusedWithoutEffect : Obligations.IllegalOpcodeIsRefusedWithoutEffect := by
  intro op more hop
  have hd : decode (op :: more) = .error (.illegalOp op) :=
    decodeOperands_of_formatOf_none (formatOf_of_illegal hop) more
  refine ⟨hd, rfl, fun a s rest hr hp => ?_⟩
  have hw := turnWaits_of_commandWaits_false (a := a) (commandWaits_of_decode_error { s with pending := rest } hd)
  have hstep : step s = .next (({ s with pending := rest }).answer (.illegalOp op)) := by
    rw [step_of_ready hr hp hw, takeTurn, runCommand_of_illegal _ hd]
  exact ⟨_, hstep, rfl, rfl⟩

/-- Settles O53: whether the turn waits is settled by the operation its bytes decode to. -/
theorem stepRunsTheDecodedOperation : Obligations.StepRunsTheDecodedOperation := by
  intro a bytes more i s rest hr hp hd hi
  have hwaits : commandWaits a bytes { s with pending := rest } = (isLaterEdge a i || takesTime i s) := by
    rw [commandWaits_of_decode_ok _ hd, show mayIssue a i { s with pending := rest } = true from hi, Bool.true_and]
    rfl
  refine ⟨fun h => ?_, fun h e later he => ?_⟩
  · have hw : turnWaits (.command a bytes) { s with pending := rest } = false := by
      rcases h with he | ⟨hl, ht⟩
      · exact turnWaits_of_no_edges _ he
      · exact turnWaits_of_commandWaits_false (by rw [hwaits, hl, ht, Bool.or_self])
    have hrun := runCommand_of_decode_ok (s := { s with pending := rest }) hd (by rw [pushBytes_pending]; exact hi)
    rw [step_of_ready hr hp hw, takeTurn, hrun, pushBytes_pending]
  · have hw : turnWaits (.command a bytes) { s with pending := rest } = true :=
      turnWaits_of_commandWaits (by rw [hwaits, Bool.or_eq_true]; exact h) he
    exact step_of_waiting hr hp he hw

/-! ## Pseudo-instructions -/

/-! ### Runs of operations -/

/-- A run goes on from the next state of its first operation (R89). -/
theorem runInstrs_cons {i : Instr} {s t : State} (h : exec i s = .next t) (is : List Instr) :
    runInstrs (i :: is) s = runInstrs is t := by
  simp only [runInstrs, h]

/-- A run of one operation is the operation. -/
theorem runInstrs_singleton (i : Instr) (s : State) : runInstrs [i] s = exec i s := by
  rw [runInstrs]
  cases exec i s <;> rfl

/-- A run goes on from the state in which its first part ends (R89). -/
theorem runInstrs_append {is : List Instr} {s t : State} (h : runInstrs is s = .next t) (js : List Instr) :
    runInstrs (is ++ js) s = runInstrs js t := by
  induction is generalizing s with
  | nil => cases h; rfl
  | cons i is ih =>
    cases hi : exec i s with
    | next u => rw [runInstrs_cons hi] at h; rw [List.cons_append, runInstrs_cons hi, ih h]
    | fault e => simp only [runInstrs, hi] at h; cases h
    | refused r => simp only [runInstrs, hi] at h; cases h

/-! ### RX.HIGH -/

/-- The time `t` µs as a timestamp of `TS_W` bits (R113, D4). -/
theorem lowBits_ofNat_toNat {k : Nat} (h : k ≤ 32) (t : Nat) :
    (lowBits k (BitVec.ofNat 32 t)).toNat = t % 2 ^ k := by
  rw [lowBits_toNat, BitVec.toNat_ofNat, Nat.mod_mod_of_dvd _ (Nat.pow_dvd_pow 2 h)]

/-- A fall `w` µs after a rise is `w` µs after it modulo the timer's range, wherever the rise stands (R142, D4). -/
theorem timestampDiff_of_high {c : Config} {t w : Nat} (hk : c.tsW ≤ 32) (hw : w < 2 ^ c.tsW) :
    timestampDiff c (BitVec.ofNat 32 (t + w)) (lowBits c.tsW (BitVec.ofNat 32 t)) = BitVec.ofNat 32 w := by
  have hdvd : 2 ^ c.tsW ∣ 2 ^ 32 := Nat.pow_dvd_pow 2 hk
  have hle : 2 ^ c.tsW ≤ 2 ^ 32 := Nat.pow_le_pow_right (by decide) hk
  have hu : t % 2 ^ c.tsW < 2 ^ c.tsW := Nat.mod_lt _ (Nat.two_pow_pos _)
  have hmod : (t + w) % 2 ^ 32 + 2 ^ 32 - t % 2 ^ c.tsW ≡ w [MOD 2 ^ c.tsW] := by
    refine Nat.ModEq.add_right_cancel' (t % 2 ^ c.tsW) ?_
    calc (t + w) % 2 ^ 32 + 2 ^ 32 - t % 2 ^ c.tsW + t % 2 ^ c.tsW
        = (t + w) % 2 ^ 32 + 2 ^ 32 := by omega
      _ ≡ (t + w) + 0 [MOD 2 ^ c.tsW] :=
          ((Nat.mod_modEq _ _).of_dvd hdvd).add ((Nat.modEq_zero_iff_dvd).2 hdvd)
      _ = w + t := by omega
      _ ≡ w + t % 2 ^ c.tsW [MOD 2 ^ c.tsW] := (Nat.mod_modEq _ _).symm.add_left w
  apply BitVec.eq_of_toNat_eq
  rw [timestampDiff_toNat _ _ hk, lowBits_ofNat_toNat hk, BitVec.toNat_ofNat, BitVec.toNat_ofNat, hmod,
    Nat.mod_eq_of_lt hw, Nat.mod_eq_of_lt (by omega)]

/-- How an RX operation ends does not depend on the RX context it replaces. -/
theorem finishRx_setRx (rx : RxContext) (s : State) (r : Except Fault RxContext) :
    finishRx (s.setRx rx) r = finishRx s r := by
  cases r <;> rfl

/-- A falling edge that exceeds a valid rise is the pulse of their difference, behind the record of the fall (R142). -/
theorem exec_rxFall_of_exceeds {x : Timestamp} {s : State} (hv : s.rx.riseValid = true)
    (hx : fallExceedsRise s.cfg (timestampDiff s.cfg x s.rx.lastRise) = true) :
    exec (.rxFall x) s =
      exec (.rxPulse (timestampDiff s.cfg x s.rx.lastRise))
        (s.setRx { s.rx with lastFall := lowBits s.cfg.tsW x }) := by
  simp only [exec, execRxFall, execRxPulse, recordFall, hv, hx, Bool.and_self, if_true]
  exact (finishRx_setRx _ s _).symm

/-- Settles O11: the fall's distance to the rise, modulo the timer's range, is `w`, which is below half of it. -/
theorem highPulseIsMeasuredAcrossTheWrap : Obligations.HighPulseIsMeasuredAcrossTheWrap := by
  intro t w s hk hpos hw
  have hlt : w < 2 ^ s.cfg.tsW := hw.trans_le (Nat.pow_le_pow_right (by decide) (Nat.sub_le _ _))
  have hlt32 : w < 2 ^ 32 := hlt.trans_le (Nat.pow_le_pow_right (by decide) hk)
  have hdiff := timestampDiff_of_high (t := t) hk hlt
  have hexc : fallExceedsRise s.cfg (BitVec.ofNat 32 w) = true := by
    rw [fallExceedsRise_eq_true_iff, BitVec.toNat_ofNat, Nat.mod_eq_of_lt hlt32]
    exact ⟨hpos, hw⟩
  refine ⟨_, _, lowBits_ofNat_toNat hk t, lowBits_ofNat_toNat hk (t + w), ?_⟩
  rw [pseudoHigh, runInstrs_cons rfl, runInstrs_singleton, exec_rxFall_of_exceeds rfl (hdiff ▸ hexc)]
  simp only [State.answer_cfg, State.answer_rx, State.setRx_cfg, State.setRx_rx, recordRise, hdiff]
  rfl

/-! ### RX.RECV -/

/-- RX.PULSE is the classifier (R149). -/
theorem exec_rxPulse (w : PulseWidth) (s : State) :
    exec (.rxPulse w) s = finishRx s (classify s.cfg (lowBits s.cfg.pwW w) s.rx) := rfl

/-- A marker begins a frame (R143, R144). -/
theorem classify_of_marker {c : Config} {w : PulseWidth} {rx : RxContext} (hm : isMarker c w = true) :
    classify c w rx = .ok { rx with bitIndex := 0, state := UnitState.run.code, frame := 0 } :=
  if_pos hm

/-- In RUN a tail ends the frame (R143, R145). -/
theorem classify_of_tail {c : Config} {w : PulseWidth} {rx : RxContext} (hm : isMarker c w = false)
    (hs : rx.state = UnitState.run.code) (ht : isTail c w rx.bitIndex = true) :
    classify c w rx = .ok { rx with done := true, state := UnitState.idle.code } := by
  simp only [classify, hm, hs, UnitState.ofCode_code, ht, if_true, Bool.false_eq_true, if_false]

/-- In RUN a data pulse shifts its bit in (R143, R146). -/
theorem classify_of_data {c : Config} {w : PulseWidth} {rx : RxContext} (hm : isMarker c w = false)
    (hs : rx.state = UnitState.run.code) (ht : isTail c w rx.bitIndex = false) :
    classify c w rx = .ok { rx with frame := shiftIn rx.frame (isOne c w), bitIndex := satInc c rx.bitIndex } := by
  simp only [classify, hm, hs, UnitState.ofCode_code, ht, Bool.false_eq_true, if_false]

/-- The frame bits 0 to `k` are the bits 0 to `k - 1` with bit `k` shifted in behind them (R12, R31). -/
theorem shiftIn_frameBit (f : Frame) {k : Nat} (hk : k < 64) :
    shiftIn (f >>> (64 - k)) (frameBit f k = 1) = f >>> (64 - (k + 1)) := by
  have hbit : (decide (frameBit f k = 1)).toNat = f.toNat / 2 ^ (63 - k) % 2 := by
    rw [← frameBit_toNat]
    generalize frameBit f k = b
    revert b
    decide
  have hhalf : f.toNat / 2 ^ (64 - k) = f.toNat / 2 ^ (63 - k) / 2 := by
    rw [show 64 - k = 63 - k + 1 by omega, Nat.pow_succ, Nat.div_div_eq_div_mul]
  have hlt : f.toNat / 2 ^ (63 - k) < 2 ^ 64 := (Nat.div_le_self _ _).trans_lt f.isLt
  apply BitVec.eq_of_toNat_eq
  rw [shiftIn_toNat, hbit, BitVec.toNat_ushiftRight, BitVec.toNat_ushiftRight, Nat.shiftRight_eq_div_pow,
    Nat.shiftRight_eq_div_pow, hhalf, show 64 - (k + 1) = 63 - k by omega]
  omega

/-- The state in which a marker and the first `k` data pulses of `f` have been received. -/
def receivedBits (f : Frame) (k : Nat) (s : State) : State :=
  (s.setRx { s.rx with frame := f >>> (64 - k), bitIndex := k, state := UnitState.run.code }).answer (.ok .nothing)

/-- RX.RECV's marker begins the reception, whatever was received before (R113, R144). -/
theorem exec_recv_marker (f : Frame) {s : State} (hc : s.cfg = Config.nominal) :
    exec (.rxPulse 512) s = .next (receivedBits f 0 s) := by
  have hempty : f >>> (64 - 0) = 0 := BitVec.ushiftRight_eq_zero (Nat.le_refl 64)
  rw [exec_rxPulse, hc, classify_of_marker (by decide), receivedBits, hempty]
  rfl

/-- A pulse that is neither marker nor tail, and a 1 exactly where bit `k` is, is received as bit `k` (R143, R146). -/
theorem exec_rxPulse_receivedBits {f : Frame} {k : Nat} {w : PulseWidth} {s : State} (hc : s.cfg = Config.nominal)
    (hk : k < 64) (hm : isMarker Config.nominal w = false) (hw : Config.nominal.tailMax ≤ w.toNat)
    (ho : isOne Config.nominal w = decide (frameBit f k = 1)) :
    exec (.rxPulse w) (receivedBits f k s) = .next (receivedBits f (k + 1) s) := by
  have ht : isTail Config.nominal w k = false := by
    rw [← Bool.not_eq_true, isTail_eq_true_iff]
    exact fun h => absurd h.1 (Nat.not_lt.2 hw)
  have hinc : satInc Config.nominal k = (k + 1 : Nat) := by
    rw [satInc_of_counterRange (by decide) (by omega), show Config.nominal.biMax = 127 from rfl]
    omega
  have hwidth : lowBits Config.nominal.pwW w = w := lowBits_self w
  rw [exec_rxPulse, show (receivedBits f k s).cfg = Config.nominal from hc, hwidth, classify_of_data hm rfl ht, ho]
  simp only [receivedBits, State.answer_rx, State.setRx_rx, shiftIn_frameBit f hk, hinc]
  rfl

/-- RX.RECV's pulse for bit `k` is received as that bit (R113, R146). -/
theorem exec_recvPulse (f : Frame) {k : Nat} (hk : k < 64) {s : State} (hc : s.cfg = Config.nominal) :
    exec (recvPulse f k) (receivedBits f k s) = .next (receivedBits f (k + 1) s) := by
  unfold recvPulse
  split
  case isTrue hb => exact exec_rxPulse_receivedBits hc hk (by decide) (by decide) (by rw [decide_eq_true hb]; decide)
  case isFalse hb => exact exec_rxPulse_receivedBits hc hk (by decide) (by decide) (by rw [decide_eq_false hb]; decide)

/-- RX.RECV's tail after 64 bits ends the reception with the whole frame (R113, R145). -/
theorem exec_recv_tail (f : Frame) {s : State} (hc : s.cfg = Config.nominal) :
    exec (.rxPulse 20) (receivedBits f 64 s) =
      .next ((s.setRx { s.rx with frame := f, bitIndex := 64, state := UnitState.idle.code, done := true }).answer
        (.ok .nothing)) := by
  have hall : f >>> (64 - 64) = f := BitVec.ushiftRight_zero f
  rw [exec_rxPulse, show (receivedBits f 64 s).cfg = Config.nominal from hc,
    classify_of_tail (by decide) rfl (show isTail Config.nominal 20 64 = true by decide), receivedBits, hall]
  rfl

/-- The data pulses of RX.RECV, one after another (R113, R146). -/
theorem runInstrs_recvPulses (f : Frame) {k : Nat} (hk : k ≤ 64) {s : State} (hc : s.cfg = Config.nominal) :
    runInstrs ((List.range k).map (recvPulse f)) (receivedBits f 0 s) = .next (receivedBits f k s) := by
  induction k with
  | zero => rfl
  | succ k ih =>
    rw [List.range_succ, List.map_append, runInstrs_append (ih (by omega)), List.map_singleton, runInstrs_singleton]
    exact exec_recvPulse f (by omega) hc

/-- Settles O18: the marker, the 64 data pulses by induction on their number, and the tail. -/
theorem receptionReproducesTheFrame : Obligations.ReceptionReproducesTheFrame := by
  intro f s hc
  have hrun : runInstrs (pseudoRecv f) s =
      .next ((s.setRx { s.rx with frame := f, bitIndex := 64, state := UnitState.idle.code, done := true }).answer
        (.ok .nothing)) := by
    rw [pseudoRecv, List.cons_append, runInstrs_cons (exec_recv_marker f hc),
      runInstrs_append (runInstrs_recvPulses f (Nat.le_refl 64) hc), runInstrs_singleton, exec_recv_tail f hc]
  exact ⟨_, hrun, rfl, rfl, rfl, rfl, rfl, rfl, rfl, rfl, rfl⟩

end Sys2Proof.Machine

namespace Sys2Proof.Machine

open Sys2Proof

/-! ## The EdgeTimer and the classifier, operation by operation -/

/-! ### A pulse by its class -/

/-- No tail is as wide as `TAIL_MAX`, whatever the index (R143, R148). -/
theorem isTail_of_tailMax_le {c : Config} {w : PulseWidth} (h : c.tailMax ≤ w.toNat) (b : Int) :
    isTail c w b = false := by
  rw [← Bool.not_eq_true, isTail_eq_true_iff]
  exact fun ht => absurd ht.1 (Nat.not_lt.2 h)

/-- Outside RUN the classifier drops every pulse but a marker (R147). -/
theorem classify_of_idle_or_stop {c : Config} {w : PulseWidth} {rx : RxContext} (hm : isMarker c w = false)
    (hs : rx.state = UnitState.idle.code ∨ rx.state = UnitState.stop.code) : classify c w rx = .ok rx := by
  rcases hs with hs | hs <;>
    simp only [classify, hm, hs, UnitState.ofCode_code, Bool.false_eq_true, if_false]

/-- In a legal state the classifier takes every width (R45). -/
theorem classify_ok_of_legal (c : Config) (w : PulseWidth) {rx : RxContext} (h : rx.state ≠ 3#2) :
    ∃ rx', classify c w rx = .ok rx' := by
  cases hr : classify c w rx with
  | ok rx' => exact ⟨rx', rfl⟩
  | error e => exact absurd (classify_error_iff.1 hr).2.1 h

/-- The classifier sees a width through its three comparisons only (R143). -/
theorem classify_congr {c : Config} {w w' : PulseWidth} {rx : RxContext} (hm : isMarker c w = isMarker c w')
    (ht : isTail c w rx.bitIndex = isTail c w' rx.bitIndex) (ho : isOne c w = isOne c w') :
    classify c w rx = classify c w' rx := by
  simp only [classify, hm, ht, ho]

/-! ### RX.PULSE by the class of its width -/

section Pulse

variable {c : Config} {w : PulseWidth} {s : State}

/-- A width of `PW_W` bits reaches the classifier as it is (R8, R149). -/
theorem exec_rxPulse_of_lt (hc : s.cfg = c) (hw : w.toNat < 2 ^ c.pwW) :
    exec (.rxPulse w) s = finishRx s (classify c w s.rx) := by
  rw [exec_rxPulse, hc, lowBits_of_lt hw]

theorem exec_rxPulse_of_marker (hc : s.cfg = c) (hw : w.toNat < 2 ^ c.pwW) (hm : isMarker c w = true) :
    exec (.rxPulse w) s = .next (afterMarker s) := by
  rw [exec_rxPulse_of_lt hc hw, classify_of_marker hm]
  rfl

theorem exec_rxPulse_of_tail (hc : s.cfg = c) (hw : w.toNat < 2 ^ c.pwW) (hm : isMarker c w = false)
    (hs : s.rx.state = UnitState.run.code) (ht : isTail c w s.rx.bitIndex = true) :
    exec (.rxPulse w) s = .next (afterTail s) := by
  rw [exec_rxPulse_of_lt hc hw, classify_of_tail hm hs ht]
  rfl

theorem exec_rxPulse_of_data {b : Bool} (hc : s.cfg = c) (hw : w.toNat < 2 ^ c.pwW) (hm : isMarker c w = false)
    (hs : s.rx.state = UnitState.run.code) (ht : isTail c w s.rx.bitIndex = false) (ho : isOne c w = b) :
    exec (.rxPulse w) s = .next (afterData b s) := by
  rw [exec_rxPulse_of_lt hc hw, classify_of_data hm hs ht, ho, ← hc]
  rfl

theorem exec_rxPulse_of_idle_or_stop (hc : s.cfg = c) (hw : w.toNat < 2 ^ c.pwW) (hm : isMarker c w = false)
    (hs : s.rx.state = UnitState.idle.code ∨ s.rx.state = UnitState.stop.code) :
    exec (.rxPulse w) s = .next { s with response := .ok .nothing } := by
  rw [exec_rxPulse_of_lt hc hw, classify_of_idle_or_stop hm hs]
  rfl

end Pulse

/-! ### RX.FALL -/

/-- A falling edge without a valid rise that it exceeds is recorded and otherwise discarded (R142). -/
theorem exec_rxFall_of_not_exceeds {x : Timestamp} {s : State}
    (h : s.rx.riseValid = true → fallExceedsRise s.cfg (timestampDiff s.cfg x s.rx.lastRise) = false) :
    exec (.rxFall x) s =
      .next { s with rx := { s.rx with lastFall := lowBits s.cfg.tsW x }, response := .ok .nothing } := by
  have hgate : (s.rx.riseValid && fallExceedsRise s.cfg (timestampDiff s.cfg x s.rx.lastRise)) = false := by
    cases hv : s.rx.riseValid with
    | false => rfl
    | true => exact h hv
  simp only [exec, execRxFall, recordFall, hgate, Bool.false_eq_true, if_false]
  rfl

/-- In a legal state RX.PULSE ends OK, the EdgeTimer's registers as they were (R45, R149). -/
theorem exec_rxPulse_of_legal (w : PulseWidth) {s : State} (h : s.rx.state ≠ 3#2) :
    ∃ v, exec (.rxPulse w) s = .next v ∧ v.rx.lastFall = s.rx.lastFall ∧ v.rx.lastRise = s.rx.lastRise ∧
      v.rx.riseValid = s.rx.riseValid ∧ v.response = .ok .nothing := by
  obtain ⟨rx, hrx⟩ := classify_ok_of_legal s.cfg (lowBits s.cfg.pwW w) h
  obtain ⟨hrise, hvalid, hfall⟩ := classify_timestamps hrx
  exact ⟨_, finishRx_eq_next_iff.2 ⟨rx, hrx, rfl⟩, hfall, hrise, hvalid, rfl⟩

/-! ### The obligations -/

/-- Settles O7: the forwarded width is the difference `d`, and the gate in front of the classifier is `0 < d < 2^(TS_W-1)`
behind a valid rise. -/
theorem fallIsMeasuredOrDiscarded : Obligations.FallIsMeasuredOrDiscarded := by
  intro t s d hk ht hd
  have hrec : lowBits s.cfg.tsW t = t := lowBits_of_lt ht
  have hdiffNat : (timestampDiff s.cfg t s.rx.lastRise).toNat = d := by rw [timestampDiff_toNat _ _ hk, hd]
  have hdiff : timestampDiff s.cfg t s.rx.lastRise = BitVec.ofNat 32 d := by
    rw [← hdiffNat, BitVec.ofNat_toNat, BitVec.setWidth_eq]
  have hgate : fallExceedsRise s.cfg (timestampDiff s.cfg t s.rx.lastRise) = true ↔
      0 < d ∧ d < 2 ^ (s.cfg.tsW - 1) := by
    rw [fallExceedsRise_eq_true_iff, hdiffNat]
  refine ⟨rfl, fun hv hpos hlt => ?_, fun hno => ?_⟩
  · have hpulse : exec (.rxFall t) s =
        exec (.rxPulse (BitVec.ofNat 32 d)) { s with rx := { s.rx with lastFall := t } } := by
      rw [exec_rxFall_of_exceeds hv (hgate.2 ⟨hpos, hlt⟩), hdiff, hrec]
      rfl
    refine ⟨hpulse, fun hs => ?_⟩
    obtain ⟨v, hexec, hfall, hrise, hvalid, hresp⟩ :=
      exec_rxPulse_of_legal (BitVec.ofNat 32 d) (s := { s with rx := { s.rx with lastFall := t } }) hs
    exact ⟨v, hpulse.trans hexec, hfall, hrise, hvalid.trans hv, hresp⟩
  · have hdrop : s.rx.riseValid = true →
        fallExceedsRise s.cfg (timestampDiff s.cfg t s.rx.lastRise) = false := by
      intro hv
      rw [← Bool.not_eq_true, hgate]
      rintro ⟨hpos, hlt⟩
      rcases hno with hinvalid | hzero | hhalf
      · simp [hv] at hinvalid
      · omega
      · omega
    rw [exec_rxFall_of_not_exceeds hdrop, hrec]

/-- Settles O8: one clause per class of the width. -/
theorem pulseIsClassified : Obligations.PulseIsClassified := by
  refine ⟨⟨rfl, rfl, rfl, rfl, rfl⟩, ?_⟩
  rintro w s _ rfl hw
  have hnot (h : w.toNat ≤ s.cfg.markerMin) : isMarker s.cfg w = false := by
    rw [← Bool.not_eq_true, isMarker_eq_true_iff]
    exact Nat.not_lt.2 h
  refine ⟨rfl, fun hm => ?_, fun hm hs ht => ?_, fun hm hs ht => ?_, fun hm hs => ?_⟩
  · exact exec_rxPulse_of_marker rfl hw ((isMarker_eq_true_iff _ _).2 hm)
  · exact exec_rxPulse_of_tail rfl hw (hnot hm) hs ((isTail_eq_true_iff _ _ _).2 ht)
  · have htail : isTail s.cfg w s.rx.bitIndex = false := by
      rw [← Bool.not_eq_true, isTail_eq_true_iff]
      exact ht
    refine ⟨_, _, exec_rxPulse_of_data rfl hw (hnot hm) hs htail rfl, ?_, fun hrange hfits => ?_⟩
    · rw [shiftIn_toNat, isOne, Bool.toNat, Bool.cond_decide]
    · obtain ⟨hpos, hbound⟩ := biW_bounds_of_counterRange hrange
      obtain ⟨hlo, hhi⟩ := hrange
      exact satInc_eq hpos hfits.1 (by omega) hhi
  · exact exec_rxPulse_of_idle_or_stop rfl hw (hnot hm) hs

/-- Settles O6: a timestamp of `TS_W` bits is recorded as it is. -/
theorem riseIsRecorded : Obligations.RiseIsRecorded := by
  intro t s ht
  have hrec : recordRise s.cfg t s.rx = { s.rx with lastRise := t, riseValid := true } := by
    rw [recordRise, lowBits_of_lt ht]
  refine ⟨rfl, ?_⟩
  rw [← hrec]
  rfl

/-- Every width below the default `TAIL_MAX` is classified as 0 is (R148). -/
theorem classify_nominal_of_lt_tailMax {w : PulseWidth} (rx : RxContext) (hw : w.toNat < Config.nominal.tailMax) :
    classify Config.nominal w rx = classify Config.nominal 0 rx := by
  refine classify_congr ?_ ?_ ?_ <;> rw [Bool.eq_iff_iff]
  · rw [isMarker_eq_true_iff, isMarker_eq_true_iff]
    exact iff_of_false (Nat.not_lt.2 (hw.le.trans (by decide))) (by decide)
  · rw [isTail_eq_true_iff, isTail_eq_true_iff]
    exact and_congr_left' (iff_of_true hw (by decide))
  · rw [isOne_eq_true_iff, isOne_eq_true_iff]
    exact iff_of_false (Nat.not_lt.2 (hw.le.trans (by decide))) (by decide)

/-- At the default widths RX.FALL forwards no width 0: the gate lets no difference 0 through (R142). -/
theorem forwardedWidth_rxFall_ne_zero {s : State} (hc : s.cfg = Config.nominal) (t : Timestamp) :
    forwardedWidth (.rxFall t) s ≠ some 0 := by
  intro h
  obtain ⟨hgate, hzero⟩ := Option.ite_none_right_eq_some.1 h
  obtain ⟨-, hexc⟩ := Bool.and_eq_true_iff.1 hgate
  have hself : lowBits s.cfg.pwW (timestampDiff s.cfg t s.rx.lastRise) = timestampDiff s.cfg t s.rx.lastRise := by
    rw [hc]
    exact lowBits_self _
  rw [← hself, Option.some.inj hzero, fallExceedsRise_eq_true_iff] at hexc
  exact absurd hexc.1 (by decide)

/-- Settles O9: each boundary width is put into its class at the default thresholds. -/
theorem thresholdsAreStrict : Obligations.ThresholdsAreStrict := by
  intro s hc
  have hw (w : PulseWidth) : w.toNat < 2 ^ Config.nominal.pwW := w.isLt
  refine ⟨exec_rxPulse_of_marker hc (hw _) (by decide), exec_rxPulse_of_idle_or_stop hc (hw _) (by decide),
    fun hs => ?_, fun w hlt => ?_, forwardedWidth_rxFall_ne_zero hc⟩
  · have hdata {w : PulseWidth} {b : Bool} (hm : isMarker Config.nominal w = false)
        (ht : isTail Config.nominal w s.rx.bitIndex = false) (ho : isOne Config.nominal w = b) :
        exec (.rxPulse w) s = .next (afterData b s) := exec_rxPulse_of_data hc (hw w) hm hs ht ho
    refine ⟨?_, ?_, ?_, ?_, fun hi => ?_, fun hi => ?_⟩
    · exact hdata (by decide) (isTail_of_tailMax_le (by decide) _) (by decide)
    · exact hdata (by decide) (isTail_of_tailMax_le (by decide) _) (by decide)
    · exact hdata (by decide) (isTail_of_tailMax_le (by decide) _) (by decide)
    · exact hdata (by decide) (isTail_of_tailMax_le (by decide) _) (by decide)
    · exact exec_rxPulse_of_tail hc (hw _) (by decide) hs (by rw [hi]; decide)
    · exact hdata (by decide) (by rw [hi]; decide) (by decide)
  · rw [exec_rxPulse_of_lt hc (hw w), exec_rxPulse_of_lt hc (hw 0), classify_nominal_of_lt_tailMax _ hlt]

/-- Settles O10: the classifier's first rule reads no state. -/
theorem markerWinsInEveryState : Obligations.MarkerWinsInEveryState :=
  fun _ _ hw hm => ⟨exec_rxPulse_of_marker rfl hw ((isMarker_eq_true_iff _ _).2 hm), rfl, rfl, rfl⟩

/-- Settles O14: RX.FRAME's meaning, read off. -/
theorem frameReadHasNoEffect : Obligations.FrameReadHasNoEffect :=
  fun _ => ⟨rfl, rfl⟩

/-- Settles O15: RX.ACK's meaning, read off. -/
theorem ackClearsDoneOnly : Obligations.AckClearsDoneOnly :=
  fun _ => ⟨rfl, rfl⟩

end Sys2Proof.Machine

namespace Sys2Proof.Machine

open Sys2Proof

/-! ## The LY unit, operation by operation -/

/-! ### Slices and the checksum -/

/-- Adjacent slices of a register join to one slice (R11). -/
theorem slice_append_slice {w : Nat} (v : BitVec w) (lo m n : Nat) :
    v.extractLsb' (lo + n) m ++ v.extractLsb' lo n = v.extractLsb' lo (m + n) := by
  rw [BitVec.extractLsb'_append_extractLsb'_eq_extractLsb' rfl]

/-- The fields of a frame, in wire order, are adjacent slices from register bit 63 down to bit 0 (R100). -/
theorem append_frameFields (f : Frame) :
    (frameFields f).syncBits ++ (frameFields f).id ++ (frameFields f).pairing ++ (frameFields f).interval ++
      (frameFields f).battery ++ (frameFields f).unused ++ (frameFields f).currentRaw ++ (frameFields f).exponent ++
      (frameFields f).checksum = f := by
  simp only [frameFields]
  rw [slice_append_slice f 40 8 16, slice_append_slice f 39 24 1, slice_append_slice f 37 25 2,
    slice_append_slice f 36 27 1, slice_append_slice f 32 28 4, slice_append_slice f 16 32 16,
    slice_append_slice f 8 48 8, slice_append_slice f 0 56 8]
  exact BitVec.extractLsb'_eq_self

/-- The payload sum as a number: the seven byte values added up, modulo 256 (R204). -/
theorem payloadSum_toNat (f : Frame) :
    (payloadSum f).toNat = ((List.range 7).map fun j => f.toNat / 256 ^ (7 - j) % 256).sum % 256 := by
  have hbytes : ((List.range 7).map fun j => f.toNat / 256 ^ (7 - j) % 256) =
      (List.range 7).map fun j => (frameByte f j).toNat :=
    List.map_congr_left fun j hj => (frameByte_toNat f j (List.mem_range.1 hj).le).symm
  have hrange : List.range 7 = [0, 1, 2, 3, 4, 5, 6] := rfl
  rw [hbytes, hrange]
  simp only [payloadSum, BitVec.toNat_add, Nat.mod_add_mod, List.map_cons, List.map_nil, List.sum_cons, List.sum_nil,
    Nat.add_assoc, Nat.add_zero]

/-- The verdict is 1 exactly where the payload sum is the checksum byte (R204). -/
theorem verdict_eq_one_iff (f : Frame) :
    BitVec.ofBool (payloadSum f == frameByte f 7) = 1 ↔ (payloadSum f).toNat = f.toNat % 256 := by
  have hlast : (frameByte f 7).toNat = f.toNat % 256 := by
    rw [frameByte_toNat f 7 le_rfl, Nat.sub_self, Nat.pow_zero, Nat.div_one]
  have hbit (b : Bool) : BitVec.ofBool b = 1 ↔ b = true := by cases b <;> decide
  rw [hbit, beq_iff_eq, BitVec.toNat_eq, hlast]

/-! ### The exponent of the converters -/

/-- The exponent field from its number (R100). -/
theorem exponent_eq_ofNat (f : Frame) : (frameFields f).exponent = BitVec.ofNat 8 (f.toNat / 256 % 256) := by
  rw [← exponent_toNat, BitVec.ofNat_toNat, BitVec.setWidth_eq]

/-- The reject policy has no exponent for a field above `EXP_MAX` (R207). -/
theorem converterExponent_of_reject {c : Config} {e : Byte} (hp : c.expPolicy = .reject) (h : c.expMax < e.toNat) :
    converterExponent c e = none := by
  rw [converterExponent_eq, if_neg (Nat.not_le.2 h), hp]

/-- A field of at most `EXP_MAX` stands as it is (R205, R206). -/
theorem converterExponent_of_le {c : Config} {f : Frame} (h : (frameFields f).exponent.toNat ≤ c.expMax) :
    converterExponent c (frameFields f).exponent = some (f.toNat / 256 % 256) := by
  rw [converterExponent_eq, if_pos h, exponent_toNat]

/-- A field of at most 15 stands under either policy, and CLAMP takes a larger one as 15 (R205, R206, D9). -/
theorem converterExponent_eq_some {c : Config} {e : Byte} (hm : c.expMax = 15)
    (h : c.expPolicy = .clamp ∨ e.toNat ≤ 15) :
    converterExponent c e = some (if e.toNat ≤ 15 then e.toNat else 15) := by
  rw [converterExponent_eq, hm]
  split
  next => rfl
  next hgt => rw [h.resolve_right hgt]

/-! ### What the converters answer -/

/-- A number below `2^b`, scaled by at most `m` bits, stays below `2^(b + m)`. -/
theorem mul_two_pow_lt {n b e m : Nat} (hn : n < 2 ^ b) (he : e ≤ m) : n * 2 ^ e < 2 ^ (b + m) := by
  rw [Nat.pow_add]
  exact Nat.mul_lt_mul_of_lt_of_le hn (Nat.pow_le_pow_right (by decide) he) (Nat.two_pow_pos m)

/-- A product of 32 bits scaled by an exponent of at most 15 is encoded exactly in up to 32 fractional bits: no result
overflows 64 bits (R205, R206). -/
theorem fixedPoint_scaled_toNat {c : Config} {n e k : Nat} (hn : n < 2 ^ 32) (he : e ≤ 15) (hc : c.fracBits = 15 + k)
    (hk : k ≤ 17) : (fixedPoint c (n * 2 ^ e)).toNat = n * 2 ^ e * 2 ^ k :=
  fixedPoint_toNat hc (mul_two_pow_lt (mul_two_pow_lt hn he) hk)

section Converters

variable {f : Frame} {v : Volts} {s : State} {e k : Nat}

theorem exec_lyCurrent_of_none (h : converterExponent s.cfg (frameFields f).exponent = none) :
    exec (.lyCurrent f) s = .next (s.answer (.rangeError .exponent (frameFields f).exponent)) := by
  simp only [exec, execLyCurrent, h]
  rfl

theorem exec_lyPower_of_none (h : converterExponent s.cfg (frameFields f).exponent = none) :
    exec (.lyPower f v) s = .next (s.answer (.rangeError .exponent (frameFields f).exponent)) := by
  simp only [exec, execLyPower, h]
  rfl

/-- With a usable exponent LY.CURRENT answers the exact product (R205). -/
theorem exec_lyCurrent_of_some (h : converterExponent s.cfg (frameFields f).exponent = some e) (he : e ≤ 15)
    (hc : s.cfg.fracBits = 15 + k) (hk : k ≤ 17) :
    ∃ q : BitVec 64, exec (.lyCurrent f) s = .next (s.answer (.ok (.milliamps q))) ∧
      q.toNat = f.toNat / 2 ^ 16 % 2 ^ 16 * 1000 * 2 ^ e * 2 ^ k := by
  refine ⟨milliamps s.cfg (frameFields f).currentRaw e, ?_, ?_⟩
  · simp only [exec, execLyCurrent, h]
    rfl
  · rw [milliamps, fixedPoint_scaled_toNat (by omega) he hc hk, currentRaw_toNat]

/-- With a usable exponent LY.POWER answers the exact product, the voltage taken in its `V_W` bits (R206). -/
theorem exec_lyPower_of_some (h : converterExponent s.cfg (frameFields f).exponent = some e) (he : e ≤ 15)
    (hc : s.cfg.fracBits = 15 + k) (hk : k ≤ 17) :
    ∃ p : BitVec 64, exec (.lyPower f v) s = .next (s.answer (.ok (.watts p))) ∧
      p.toNat = f.toNat / 2 ^ 16 % 2 ^ 16 * (v.toNat % 2 ^ s.cfg.vW) * 2 ^ e * 2 ^ k := by
  refine ⟨watts s.cfg (frameFields f).currentRaw v e, ?_, ?_⟩
  · simp only [exec, execLyPower, h]
    rfl
  · rw [watts, fixedPoint_scaled_toNat BitVec.toNat_mul_toNat_lt he hc hk, currentRaw_toNat, lowBits_toNat]

end Converters

/-! ### The obligations -/

/-- Settles O20: the index check's two branches, with `frameBit_toNat`. -/
theorem layoutBit : Obligations.LayoutBit :=
  fun f i _ => ⟨rfl, fun hle => ⟨_, if_neg (Nat.not_lt.2 hle), frameBit_toNat f i.toNat⟩, fun hgt => if_pos hgt⟩

/-- Settles O21: the index check's two branches, with `frameByte_toNat`. -/
theorem layoutByte : Obligations.LayoutByte :=
  fun f j _ => ⟨rfl, fun hle => ⟨_, if_neg (Nat.not_lt.2 hle), frameByte_toNat f j.toNat hle⟩, fun hgt => if_pos hgt⟩

/-- Settles O22: the fields join to the frame. -/
theorem layoutDecode : Obligations.LayoutDecode :=
  fun f _ => ⟨rfl, _, rfl, (append_frameFields f).symm⟩

/-- Settles O23: the verdict compares numbers. -/
theorem layoutChecksum : Obligations.LayoutChecksum := by
  refine fun f _ => ⟨rfl, _, rfl, ?_⟩
  rw [verdict_eq_one_iff, payloadSum_toNat]

/-- Settles O24: an exponent of at most 15 converts exactly, a larger one is rejected. -/
theorem layoutCurrent : Obligations.LayoutCurrent := by
  intro f s hm hpol hc
  refine ⟨rfl, fun hle => ?_, fun hgt => ?_⟩
  · have hexp := converterExponent_of_le (c := s.cfg) (f := f) (by rwa [hm, exponent_toNat])
    obtain ⟨q, hcur, hq⟩ := exec_lyCurrent_of_some (k := 0) hexp hle hc (by decide)
    rw [Nat.pow_zero, Nat.mul_one] at hq
    refine ⟨q, hcur, hq, ?_⟩
    rw [hq]
    exact mul_two_pow_lt (b := 26) (by omega) hle
  · rw [← exponent_eq_ofNat]
    exact exec_lyCurrent_of_none (converterExponent_of_reject hpol (by rwa [hm, exponent_toNat]))

/-- Settles O25: as for the current, with a voltage that fits `V_W` bits. -/
theorem layoutPower : Obligations.LayoutPower := by
  intro f v s hm hpol hc hv
  refine ⟨rfl, fun hle => ?_, fun hgt => ?_⟩
  · have hexp := converterExponent_of_le (c := s.cfg) (f := f) (by rwa [hm, exponent_toNat])
    obtain ⟨p, hpow, hp⟩ := exec_lyPower_of_some (v := v) (k := 0) hexp hle hc (by decide)
    rw [Nat.pow_zero, Nat.mul_one, Nat.mod_eq_of_lt hv] at hp
    refine ⟨p, hpow, hp, ?_⟩
    rw [hp, ← currentRaw_toNat]
    exact mul_two_pow_lt (b := 32) BitVec.toNat_mul_toNat_lt hle
  · rw [← exponent_eq_ofNat]
    exact exec_lyPower_of_none (converterExponent_of_reject hpol (by rwa [hm, exponent_toNat]))

/-- Settles O26: both results are the same current and power of 2, times 240 and times 1000. -/
theorem powerIsCurrentTimesVoltage : Obligations.PowerIsCurrentTimesVoltage := by
  intro f s hc hle
  have hexp := converterExponent_of_le (c := s.cfg) (f := f) (by rwa [hc])
  have hle' : f.toNat / 256 % 256 ≤ 15 := by rwa [← exponent_toNat]
  have hfrac : s.cfg.fracBits = 15 + 0 := by rw [hc]; rfl
  obtain ⟨q, hcur, hq⟩ := exec_lyCurrent_of_some hexp hle' hfrac (by decide)
  obtain ⟨p, hpow, hp⟩ := exec_lyPower_of_some (v := s.cfg.refVoltageDefault) hexp hle' hfrac (by decide)
  have hvolts : s.cfg.refVoltageDefault.toNat % 2 ^ s.cfg.vW = 240 := by rw [hc]; rfl
  refine ⟨q, p, hcur, (runInstrs_singleton _ s).trans hpow, ?_⟩
  rw [hp, hq, hvolts]
  ring

/-- Settles O28: `EXP_MAX` is 15, so every exponent the converters use is at most 15 and no result overflows. -/
theorem clampPolicyConvertsAtTheMaximum : Obligations.ClampPolicyConvertsAtTheMaximum := by
  rintro f v s e k hm hpol hc hk rfl
  have hexp := converterExponent_eq_some (e := (frameFields f).exponent) hm (by rwa [exponent_toNat])
  rw [exponent_toNat] at hexp
  have hle : (if f.toNat / 256 % 256 ≤ 15 then f.toNat / 256 % 256 else 15) ≤ 15 := by split <;> omega
  obtain ⟨q, hcur, hq⟩ := exec_lyCurrent_of_some hexp hle hc hk
  obtain ⟨p, hpow, hp⟩ := exec_lyPower_of_some (v := v) hexp hle hc hk
  exact ⟨q, p, hcur, hq, hpow, hp⟩

/-- Settles O27: only the converters ask for an exponent. -/
theorem exponentPolicyRejects : Obligations.ExponentPolicyRejects := by
  intro f v s hc hge
  have hnone : converterExponent s.cfg (frameFields f).exponent = none := by
    rw [hc]
    exact converterExponent_of_reject rfl hge
  exact ⟨exec_lyCurrent_of_none hnone, exec_lyPower_of_none hnone, ⟨_, rfl, exponent_toNat f⟩, _, rfl⟩

end Sys2Proof.Machine

namespace Sys2Proof.Machine

open Sys2Proof

/-! ## The TX unit's operations -/

/-! ### What a well-formed configuration gives the TX unit -/

/-- R250 (a) in a well-formed configuration: every time fits the channel's registers. -/
theorem timesFit_of_wellFormed {c : Config} (h : c.WellFormed) : c.TimesFit := by
  obtain ⟨⟨⟨-, hm, hmper⟩, ⟨-, h0⟩, ⟨-, h1, hdper⟩, -, ht, htper⟩, -, -, -, -, -, -, -, -, -, hw, -⟩ := h
  exact ⟨hw, hmper, hm.trans hmper, hdper, h0.trans hdper, h1.trans hdper, htper, ht.trans htper⟩

/-- A frame bit as the one bit of a number (R12). -/
theorem frameBit_eq_one_iff (f : Frame) (i : Nat) : frameBit f i = 1 ↔ f.toNat / 2 ^ (63 - i) % 2 = 1 := by
  rw [← frameBit_toNat, ← BitVec.toNat_inj]
  rfl

/-- The ON-duration of a data bit, as it is loaded into a register of `TMR_W` bits (R255, R257). -/
theorem timerWord_dataOn {c : Config} (hfit : c.TimesFit) (f : Frame) (k : Nat) :
    timerWord c (if frameBit f k = 1 then c.data1On else c.data0On) = dataOn c f k := by
  obtain ⟨-, -, -, -, h0, h1, -⟩ := hfit
  unfold dataOn
  split
  · exact timerWord_of_fits h1
  · exact timerWord_of_fits h0

/-! ### The clock -/

/-- What letting the clock run may write of the whole state: the output level, the time and the transitions (R314). -/
theorem advanceTo_frame (time : Nat) (s : State) :
    ∃ o es, s.advanceTo time = { s with ch := { s.ch with tmrOut := o }, now := max s.now time, edges := es } ∧
      (s.loopback = false → es = s.edges) := by
  unfold State.advanceTo
  split
  · exact ⟨_, _, rfl, fun h => State.driveChannel_edges_of_unwired _ _ _ h⟩
  · exact ⟨s.ch.tmrOut, s.edges, rfl, fun _ => rfl⟩

/-- What coming to the overflow's instant may write (R315). -/
theorem atOverflow_frame (s : State) :
    ∃ o T es, s.atOverflow = { s with ch := { s.ch with tmrOut := o }, now := T, edges := es } ∧
      (s.loopback = false → es = s.edges) ∧ (s.ch.tmrEn = false → o = s.ch.tmrOut) := by
  unfold State.atOverflow
  split
  case isTrue hc =>
    obtain ⟨o, es, h, hes⟩ := advanceTo_frame (s.periodStart + s.ch.per.toNat) s
    have hen : s.ch.tmrEn = true := (Bool.and_eq_true_iff.1 hc).1
    exact ⟨o, _, es, h, hes, fun hoff => by simp [hen] at hoff⟩
  case isFalse => exact ⟨s.ch.tmrOut, s.now, s.edges, rfl, fun _ => rfl, fun _ => rfl⟩

/-- What coming to the compare event's instant, and recording its delivery, may write (R318). -/
theorem atCompare_frame (s : State) :
    ∃ d o T es, s.atCompare = { s with ch := { s.ch with cmpDone := d, tmrOut := o }, now := T, edges := es } ∧
      (s.loopback = false → es = s.edges) := by
  unfold State.atCompare
  split
  · obtain ⟨o, es, h, hes⟩ := advanceTo_frame (s.periodStart + s.ch.cc.toNat) s
    exact ⟨true, o, _, es, by rw [h]; rfl, hes⟩
  · exact ⟨s.ch.cmpDone, s.ch.tmrOut, s.now, s.edges, rfl, fun _ => rfl⟩

/-! ### TX.OVF by its new index -/

/-- The TX registers after the overflow event that brings the index to `n` (R254). -/
def overflowTx (n : Int) (tx : TxContext) : TxContext :=
  { tx with
    bitIndex := n
    invert := if n = 0 then !tx.invert else tx.invert
    state := if n = 65 then UnitState.stop.code else tx.state }

/-- The channel's loads at the overflow event that brings the index to `n`, other than 65 (R254). -/
def overflowLoads (c : Config) (n : Int) (tx : TxContext) (ch : Channel) : Channel :=
  { ch with
    perB := if n = 0 then timerWord c c.dataPer else if n = 64 then timerWord c c.tailPer else ch.perB
    invB := if n = 0 then !tx.invert else if n = -1 then tx.invert else ch.invB }

/-- With frames of 64 data bits and one tail symbol, the overflow event by its new index (R254). -/
theorem overflow_of_frameShape {c : Config} {tx : TxContext} {n : Int} (hc : c.FrameShape)
    (hn : satInc c tx.bitIndex = n) (ch : Channel) :
    overflow c tx ch = (overflowTx n tx, if n = 65 then timerDisable ch else overflowLoads c n tx ch) := by
  obtain ⟨hdata, htail, -, -⟩ := hc
  have hcases := overflow_cases c tx ch
  simp only [hn, hdata, htail] at hcases
  rcases hcases with ⟨h, e⟩ | ⟨h, e⟩ | ⟨-, -, h, e⟩ | ⟨-, -, -, h, e⟩ | ⟨h0, h1, h64, h65, e⟩
  · subst h; exact e
  · subst h; exact e
  · subst h; exact e
  · subst h; exact e
  · have h65' : n ≠ 65 := h65
    rw [e, overflowTx, overflowLoads]
    simp only [h0, h1, h64, h65', if_false]

section OverflowNow

variable {s : State} {n : Int} (hc : s.cfg.FrameShape) (hn : satInc s.cfg s.tx.bitIndex = n)
include hc hn

/-- At index 65 TX.OVF stops the transmission and the channel, and the line falls (R254, R317). -/
theorem overflowNow_of_stop (h : n = 65) :
    s.overflowNow = (s.setTx (overflowTx 65 s.tx)).driveChannel s.now (timerDisable s.ch) := by
  subst h
  simp only [State.overflowNow, overflow_of_frameShape hc hn, if_true, timerDisable_tmrEn, Bool.false_eq_true, if_false]

/-- Elsewhere a running channel latches what TX.OVF has loaded, and the next period begins (R254, R315). -/
theorem overflowNow_of_running (h : n ≠ 65) (hen : s.ch.tmrEn = true) :
    s.overflowNow =
      ((s.setTx (overflowTx n s.tx)).driveChannel s.now (latch (overflowLoads s.cfg n s.tx s.ch))).beginPeriod := by
  have hen' : (overflowLoads s.cfg n s.tx s.ch).tmrEn = true := hen
  simp only [State.overflowNow, overflow_of_frameShape hc hn, h, if_false, hen', if_true]

/-- On a stopped channel TX.OVF's loads are all it does to it (R254). -/
theorem overflowNow_of_stopped (h : n ≠ 65) (hen : s.ch.tmrEn = false) :
    s.overflowNow = (s.setTx (overflowTx n s.tx)).driveChannel s.now (overflowLoads s.cfg n s.tx s.ch) := by
  have hen' : (overflowLoads s.cfg n s.tx s.ch).tmrEn = false := hen
  simp only [State.overflowNow, overflow_of_frameShape hc hn, h, hen', Bool.false_eq_true, if_false]

end OverflowNow

/-- TX.OVF's writes leave the turns, and without the loopback the transitions. -/
theorem overflowNow_pending_edges (s : State) :
    s.overflowNow.pending = s.pending ∧ (s.loopback = false → s.overflowNow.edges = s.edges) := by
  unfold State.overflowNow
  split
  · exact ⟨rfl, fun h => State.driveChannel_edges_of_unwired _ _ (s.setTx _) h⟩
  · exact ⟨rfl, fun h => State.driveChannel_edges_of_unwired _ _ (s.setTx _) h⟩

/-! ### TX.CMP by its index -/

/-- With frames of 64 data bits, the compare event's load by the index plus one (R255). -/
theorem compareLoad_ccB_of_dataBits {c : Config} (hdata : c.dataBits = 64) (hfit : c.TimesFit) {tx : TxContext}
    {n : Int} (hn : tx.bitIndex + 1 = n) (ch : Channel) :
    (compareLoad c tx ch).ccB =
      if n = 64 then BitVec.ofNat 16 c.tailOn else if 0 ≤ n ∧ n < 64 then dataOn c tx.frame n.toNat else ch.ccB := by
  have htail : c.tailOn < 2 ^ c.tmrW := by
    obtain ⟨-, -, -, -, -, -, -, h⟩ := hfit
    exact h
  simp only [compareLoad, hn, hdata, timerWord_of_fits htail, timerWord_dataOn hfit]
  split
  · rfl
  · split <;> rfl

/-! ### The obligations on the operations -/

/-- Settles O29: TX.INIT's meaning read off, at times that fit their registers. -/
theorem initSetsTheTransmitter : Obligations.InitSetsTheTransmitter := by
  intro s hfit
  have hexec : exec .txInit s =
      .next (((s.setTx TxContext.reset).driveChannel s.now (Channel.reset s.cfg)).answer (.ok .nothing)) := rfl
  refine ⟨rfl, _, hexec, rfl, channelReset_of_timesFit hfit, rfl, fun h => ?_⟩
  rcases h with h | h
  · exact State.driveChannel_edges_of_unwired _ _ (s.setTx _) h
  · exact State.driveChannel_edges_of_same _ _ (s.setTx _) h.symm

/-- The state TX.SEND leaves: TimerDisable's write of the line, then TimerStart's (R252, R316, R317). -/
def State.sent (f : Frame) (s : State) : State :=
  let u := (s.setTx { frame := f, bitIndex := signedBits s.cfg.biW s.cfg.txStartIndex, state := UnitState.run.code,
                      invert := false }).driveChannel s.now (timerDisable s.ch)
  ((u.driveChannel s.now (timerStart (sendLoads s.cfg (timerDisable s.ch)))).beginPeriod).answer (.ok .nothing)

theorem exec_txSend (f : Frame) (s : State) : exec (.txSend f) s = .next (s.sent f) := rfl

theorem sent_edges (f : Frame) (s : State) :
    (s.sent f).edges = s.edges ++ (if s.loopback then levelChange s.ch.tmrOut false s.now else []) ++
      (if s.loopback then levelChange false (waveLevel s.ch.per s.ch.cc s.ch.inv 0) s.now else []) := rfl

/-- Settles O30: what `State.sent` holds, at a start index and times that fit their registers. -/
theorem sendStartsTheTransmission : Obligations.SendStartsTheTransmission := by
  intro f s hstart hw ⟨_, hper, hon, _⟩
  have hbound : (2 : Int) ≤ 2 ^ (s.cfg.biW - 1) := by
    exact_mod_cast Nat.pow_le_pow_right (n := 2) (by decide) (show 1 ≤ s.cfg.biW - 1 by omega)
  have hidx : signedBits s.cfg.biW s.cfg.txStartIndex = -2 := by
    rw [hstart]
    exact signedBits_of_fits (by omega) (by omega) (by omega)
  refine ⟨rfl, _, exec_txSend f s, ?_, ?_, rfl, fun h => ?_⟩
  · rw [← hidx]
    rfl
  · rw [← timerWord_of_fits hper, ← timerWord_of_fits hon, ← waveLevel_zero s.ch.per]
    rfl
  · simp [sent_edges, h]

/-- Settles O31: TX.STOP's meaning read off; a low line stays low. -/
theorem stopDisablesTheChannel : Obligations.StopDisablesTheChannel := by
  intro s
  refine ⟨rfl, _, rfl, rfl, fun h => ?_⟩
  rcases h with h | h
  · exact State.driveChannel_edges_of_unwired _ _ (s.setTx _) h
  · exact State.driveChannel_edges_of_same _ _ (s.setTx _) h.symm

/-- Settles O32: every register that TX.SEND writes it writes whatever stood there, and the active registers and the
clock, which shape what it writes, it leaves. -/
theorem secondSendReplacesTheFirst : Obligations.SecondSendReplacesTheFirst := by
  intro f g s t₁ t₂ t h₁ h₂ h
  cases h₁
  cases h₂
  cases h
  refine ⟨rfl, fun hunwired => ?_⟩
  have hunwired' : (s.sent f).loopback = false := hunwired
  change ((s.sent f).sent g).edges = (s.sent g).edges
  simp [sent_edges, hunwired, hunwired']

/-- What TX.OVF leaves of the whole state: the RX context and the model's own fields (R57, R320). -/
theorem overflowNow_atOverflow_frame (s : State) :
    s.atOverflow.overflowNow.rx = s.rx ∧ s.atOverflow.overflowNow.cfg = s.cfg ∧
    s.atOverflow.overflowNow.loopback = s.loopback ∧ s.atOverflow.overflowNow.pending = s.pending ∧
    (s.loopback = false → s.atOverflow.overflowNow.edges = s.edges) := by
  obtain ⟨hpend, hedges⟩ := overflowNow_pending_edges s.atOverflow
  obtain ⟨_, _, _, hat, hes, -⟩ := atOverflow_frame s
  refine ⟨by simp, by simp, by simp, hpend.trans (by rw [hat]), fun h => ?_⟩
  rw [hedges (s.atOverflow_loopback.trans h), hat]
  exact hes h

/-- TX.OVF's channel by its new index (R254, R315): stopped at 65; else latched where it runs, and only loaded where it
is stopped. -/
theorem overflowNow_atOverflow_ch {s : State} {n : Int} (hc : s.cfg.FrameShape) (hn : satInc s.cfg s.tx.bitIndex = n) :
    (n = 65 → s.atOverflow.overflowNow.ch = timerDisable s.ch) ∧
    (n ≠ 65 → s.ch.tmrEn = true → s.atOverflow.overflowNow.ch = latch (overflowLoads s.cfg n s.tx s.ch)) ∧
    (n ≠ 65 → s.ch.tmrEn = false → s.atOverflow.overflowNow.ch = overflowLoads s.cfg n s.tx s.ch) := by
  have hc' : s.atOverflow.cfg.FrameShape := by rwa [s.atOverflow_cfg]
  have hn' : satInc s.atOverflow.cfg s.atOverflow.tx.bitIndex = n := by rwa [s.atOverflow_cfg, s.atOverflow_tx]
  obtain ⟨_, _, _, hat, -, ho⟩ := atOverflow_frame s
  refine ⟨fun h => ?_, fun h hen => ?_, fun h hen => ?_⟩
  · rw [overflowNow_of_stop hc' hn' h, hat]; rfl
  · rw [overflowNow_of_running hc' hn' h (by rw [hat]; exact hen), hat]; rfl
  · rw [overflowNow_of_stopped hc' hn' h (by rw [hat]; exact hen), hat, ho hen]; rfl

/-- Settles O33: the TX registers are `overflowTx`'s; the channel by whether the transmission ends and whether it
runs. -/
theorem overflowActsByIndex : Obligations.OverflowActsByIndex := by
  rintro s n hwf ⟨hlo, -⟩ hn
  have hc := frameShape_of_wellFormed hwf
  have hsat : satInc s.cfg s.tx.bitIndex = n := by
    obtain ⟨hw, hp⟩ := biW_bounds_of_counterRange (counterRange_of_wellFormed hwf)
    obtain ⟨hmin, hmax⟩ := counterRange_of_wellFormed hwf
    rw [hn]
    exact satInc_eq hw hlo (by omega) hmax
  have htx : s.atOverflow.overflowNow.tx = overflowTx n s.tx := by
    rw [State.overflowNow_tx, s.atOverflow_cfg, s.atOverflow_tx, overflow_of_frameShape hc hsat]
  obtain ⟨-, -, -, hdper, -, -, htper, -⟩ := timesFit_of_wellFormed hwf
  obtain ⟨hstop, hrun, hoff⟩ := overflowNow_atOverflow_ch hc hsat
  obtain ⟨hrx, hcfg, hloop, hpend, hedges⟩ := overflowNow_atOverflow_frame s
  refine ⟨rfl, _, exec_txOvf s, ?_⟩
  simp only [State.answer_tx, State.answer_ch, State.answer_rx, State.answer_cfg, State.answer_loopback,
    State.answer_response, State.answer_pending, State.answer_edges, htx, hrx, hcfg, hloop, hpend]
  refine ⟨rfl, rfl, rfl, rfl, ?_⟩
  by_cases h65 : n = 65
  · rw [hstop h65]
    simpa [h65] using hedges
  · cases hen : s.ch.tmrEn with
    | true =>
      rw [hrun h65 hen]
      simpa [overflowLoads, timerWord_of_fits hdper, timerWord_of_fits htper, h65, hen] using hedges
    | false =>
      rw [hoff h65 hen]
      simpa [overflowLoads, timerWord_of_fits hdper, timerWord_of_fits htper, h65, hen] using hedges

/-- Settles O35: `compareLoad_ccB_of_dataBits`, behind what the clock and the record of the delivery write. -/
theorem compareLoadsTheNextWidth : Obligations.CompareLoadsTheNextWidth := by
  intro s n hdata hfit hn
  obtain ⟨d, o, T, es, hat, hes⟩ := atCompare_frame s
  have hload : (compareLoad s.cfg s.tx { s.ch with cmpDone := d, tmrOut := o }).ccB =
      if n = 64 then BitVec.ofNat 16 s.cfg.tailOn
      else if 0 ≤ n ∧ n < 64 then dataOn s.cfg s.tx.frame n.toNat else s.ch.ccB :=
    compareLoad_ccB_of_dataBits hdata hfit hn.symm _
  refine ⟨rfl, _, exec_txCmp s, ?_, ?_, fun h => ?_⟩
  · simp only [← frameBit_eq_one_iff]
    rw [hat]
    exact hload
  · rw [hat, State.loadCompare, compareLoad_eq]
    rfl
  · rw [hat]
    refine (State.driveChannel_edges_of_unwired _ _ _ ?_).trans (hes h)
    exact h

/-- Settles O40: from index -2 the increment is exact, and R254's branch at -1 writes `tx_invert` into the buffered
polarity. -/
theorem reassertWritesTheSameValue : Obligations.ReassertWritesTheSameValue := by
  rintro s t hidx ⟨hmin, hmax⟩ hinv h
  rw [exec_txOvf] at h
  cases h
  have hsat : satInc s.cfg s.tx.bitIndex = -1 := by
    rw [satInc_of_counterRange ⟨hmin, hmax⟩ hidx.ge, hidx]
    omega
  have hload : overflow s.cfg s.tx s.atOverflow.ch =
      ({ s.tx with bitIndex := -1 }, { s.atOverflow.ch with invB := s.tx.invert }) := by
    simp only [overflow, hsat]
    rfl
  rw [State.answer_ch, State.answer_tx, State.overflowNow_ch, State.overflowNow_tx, State.atOverflow_cfg,
    State.atOverflow_tx, hload, State.atOverflow_ch]
  refine ⟨?_, rfl, ?_⟩
  · rw [hinv]
    split <;> rfl
  · split <;> rfl

end Sys2Proof.Machine

namespace Sys2Proof.Machine

open Sys2Proof

/-! ## A transmission, period by period -/

/-! ### The channel's events at their instants -/

/-- From the compare point on the line is at the period's last level (R314). -/
theorem waveLevel_of_compared {per cc : Micros} (hcc : cc.toNat < per.toNat) (inv : Bool) {τ : Nat} (h : cc.toNat ≤ τ) :
    waveLevel per cc inv τ = inv := by
  have hpast : ¬ min τ (per.toNat - 1) < cc.toNat := by omega
  rw [waveLevel, decide_eq_false hpast, Bool.false_xor]

/-- At the boundary the line is at the period's last level (R314). -/
theorem waveLevel_per (ch : Channel) : waveLevel ch.per ch.cc ch.inv ch.per.toNat = lastLevel ch := by
  rw [waveLevel, lastLevel, Nat.min_eq_right (Nat.sub_le _ _)]

/-- A line whose compare point is not inside the period keeps its level throughout (R314). -/
theorem waveLevel_zero_of_per_le {ch : Channel} (h : ch.per.toNat ≤ ch.cc.toNat) :
    waveLevel ch.per ch.cc ch.inv 0 = lastLevel ch := by
  have hsame : 0 < ch.cc.toNat ↔ ch.per.toNat - 1 < ch.cc.toNat := by omega
  rw [waveLevel_zero, lastLevel, decide_eq_decide.2 hsame]

/-- With the compare point inside the period, the last level is the one behind it (R314). -/
theorem lastLevel_of_cc_lt_per {ch : Channel} (h : ch.cc.toNat < ch.per.toNat) : lastLevel ch = ch.inv := by
  rw [← waveLevel_per, waveLevel_of_compared h ch.inv h.le]

/-- The compare event's load reads and writes neither the line nor the record of the delivery (R255). -/
theorem compareLoad_of_delivery (c : Config) (tx : TxContext) (ch : Channel) (d o : Bool) :
    compareLoad c tx { ch with cmpDone := d, tmrOut := o } =
      { ch with cmpDone := d, tmrOut := o, ccB := (compareLoad c tx ch).ccB } := by
  unfold compareLoad
  dsimp only
  split
  · rfl
  · split <;> rfl

/-- The state with the clock at `time`. -/
def State.setNow (time : Nat) (s : State) : State :=
  { s with now := time }

/-- The state after the compare event at its instant: at `CC`, the delivery recorded, the line at the level behind `CC`,
the next ON-duration loaded (R255, R314, R318). -/
def State.compared (s : State) : State :=
  ((s.setNow (s.periodStart + s.ch.cc.toNat)).driveChannel (s.periodStart + s.ch.cc.toNat)
    { s.ch with cmpDone := true, tmrOut := s.ch.inv, ccB := (compareLoad s.cfg s.tx s.ch).ccB }).answer (.ok .nothing)

/-- The state after the overflow event at its instant: at `PER`, with TX.OVF's writes and the latch (R254, R315). -/
def State.overflowed (s : State) : State :=
  (s.setNow (s.periodStart + s.ch.per.toNat)).overflowNow.answer (.ok .nothing)

/-- Before the compare point, a due compare event comes at `CC` (R318). -/
theorem exec_txCmp_of_due {s : State} (hdue : compareDue s.ch = true) (hnow : s.now ≤ s.periodStart + s.ch.cc.toNat) :
    exec .txCmp s = .next s.compared := by
  obtain ⟨hen, -, hcc, -⟩ := (compareDue_eq_true_iff _).1 hdue
  have hlevel : waveLevel s.ch.per s.ch.cc s.ch.inv (s.periodStart + s.ch.cc.toNat - s.periodStart) = s.ch.inv :=
    waveLevel_of_compared hcc _ (by omega)
  have hat : s.atCompare = (s.setNow (s.periodStart + s.ch.cc.toNat)).driveChannel
      (s.periodStart + s.ch.cc.toNat) { s.ch with cmpDone := true, tmrOut := s.ch.inv } := by
    simp only [State.atCompare, hdue, State.advanceTo, hen, if_true, Nat.max_eq_right hnow, hlevel]
    rfl
  rw [exec_txCmp, State.compared, State.loadCompare, hat, State.driveChannel_ch, State.driveChannel_cfg,
    State.driveChannel_tx, compareLoad_of_delivery]
  simp only [State.driveChannel, levelChange_same, ite_self, List.append_nil]
  rfl

/-- Up to the boundary, an overflow event that is next comes at `PER` (R315). -/
theorem exec_txOvf_of_due {s : State} (hen : s.ch.tmrEn = true) (hdue : compareDue s.ch = false)
    (hnow : s.now ≤ s.periodStart + s.ch.per.toNat) (hout : s.ch.tmrOut = lastLevel s.ch) :
    exec .txOvf s = .next s.overflowed := by
  have hlevel : waveLevel s.ch.per s.ch.cc s.ch.inv (s.periodStart + s.ch.per.toNat - s.periodStart) = s.ch.tmrOut := by
    rw [Nat.add_sub_cancel_left, waveLevel_per, hout]
  have hat : s.atOverflow = s.setNow (s.periodStart + s.ch.per.toNat) := by
    have hgate : (s.ch.tmrEn && !compareDue s.ch) = true := by simp [hen, hdue]
    simp only [State.atOverflow, if_pos hgate, State.advanceTo, if_pos hen, Nat.max_eq_right hnow, hlevel,
      State.driveChannel, levelChange_same, ite_self, List.append_nil]
    rfl
  rw [exec_txOvf, hat, State.overflowed]

/-- While an index from -2 to 64 is counted up, it does not saturate (R13). -/
theorem satInc_of_wellFormed {c : Config} (hwf : c.WellFormed) {b : Int} (hlo : -2 ≤ b) (hhi : b ≤ 64) :
    satInc c b = b + 1 := by
  obtain ⟨hmin, -⟩ := counterRange_of_wellFormed hwf
  rw [satInc_of_counterRange (counterRange_of_wellFormed hwf) hlo]
  omega

/-- Where a running channel goes on after its overflow event, the next period begins at that instant (R254, R315). -/
theorem overflowed_of_running {s : State} {n : Int} (hwf : s.cfg.WellFormed) (hn : s.tx.bitIndex + 1 = n) (hlo : -1 ≤ n)
    (hhi : n ≤ 64) (hen : s.ch.tmrEn = true) :
    s.overflowed =
      ((((s.setNow (s.periodStart + s.ch.per.toNat)).setTx (overflowTx n s.tx)).driveChannel
        (s.periodStart + s.ch.per.toNat) (latch (overflowLoads s.cfg n s.tx s.ch))).beginPeriod).answer
          (.ok .nothing) := by
  have hsat : satInc s.cfg s.tx.bitIndex = n := by rw [← hn]; exact satInc_of_wellFormed hwf (by omega) (by omega)
  rw [State.overflowed, overflowNow_of_running (s := s.setNow (s.periodStart + s.ch.per.toNat))
    (frameShape_of_wellFormed hwf) hsat (by omega) hen]
  rfl

/-- After the tail period the overflow event ends the transmission (R254, R317). -/
theorem overflowed_of_tail {s : State} (hwf : s.cfg.WellFormed) (hidx : s.tx.bitIndex = 64) :
    s.overflowed =
      (((s.setNow (s.periodStart + s.ch.per.toNat)).setTx (overflowTx 65 s.tx)).driveChannel
        (s.periodStart + s.ch.per.toNat) (timerDisable s.ch)).answer (.ok .nothing) := by
  have hsat : satInc s.cfg s.tx.bitIndex = 65 := by
    rw [satInc_of_wellFormed hwf (by omega) (by omega), hidx]
    rfl
  rw [State.overflowed, overflowNow_of_stop (s := s.setNow (s.periodStart + s.ch.per.toNat))
    (frameShape_of_wellFormed hwf) hsat rfl]
  rfl

/-! ### Between two events of the channel -/

/-- `t` differs from `s` at most in what the delivery of transitions of the line writes (R308 (d), R320). -/
def DeliveredFrom (s t : State) : Prop :=
  ∃ rx es r, t = { s with rx := rx, edges := es, response := r }

theorem DeliveredFrom.refl (s : State) : DeliveredFrom s s := ⟨_, _, _, rfl⟩

theorem DeliveredFrom.trans {s t u : State} (h : DeliveredFrom s t) (h' : DeliveredFrom t u) : DeliveredFrom s u := by
  obtain ⟨_, _, _, rfl⟩ := h
  obtain ⟨_, _, _, rfl⟩ := h'
  exact ⟨_, _, _, rfl⟩

/-- After the compare event, whatever is delivered to the RX unit, the period ends with its overflow event (R318). -/
theorem exec_txOvf_of_compared {s u : State} (hdue : compareDue s.ch = true) (hu : DeliveredFrom s.compared u) :
    exec .txOvf u = .next u.overflowed := by
  obtain ⟨hen, -, hcc, -⟩ := (compareDue_eq_true_iff _).1 hdue
  obtain ⟨rx, es, r, rfl⟩ := hu
  refine exec_txOvf_of_due hen ?_ (Nat.add_le_add_left hcc.le _) ?_
  · simp [compareDue, State.compared]
  · exact (lastLevel_of_cc_lt_per (ch := s.ch) hcc).symm

/-- What the overflow event makes of a compared period that goes on: of the compare event only the load of `CC_B` is
left (R254, R255, R315). -/
theorem overflowed_of_compared {s u : State} {n : Int} (hwf : s.cfg.WellFormed) (hen : s.ch.tmrEn = true)
    (hu : DeliveredFrom s.compared u) (hn : s.tx.bitIndex + 1 = n) (hlo : -1 ≤ n) (hhi : n ≤ 64) :
    u.overflowed.cfg = s.cfg ∧ u.overflowed.tx = overflowTx n s.tx ∧
    u.overflowed.ch = latch (overflowLoads s.cfg n s.tx { s.ch with ccB := (compareLoad s.cfg s.tx s.ch).ccB }) ∧
    u.overflowed.now = s.periodStart + s.ch.per.toNat ∧ u.overflowed.periodStart = s.periodStart + s.ch.per.toNat := by
  obtain ⟨rx, es, r, rfl⟩ := hu
  have h := overflowed_of_running (s := { s.compared with rx := rx, edges := es, response := r }) hwf hn hlo hhi hen
  rw [h]
  exact ⟨rfl, rfl, rfl, rfl, rfl⟩

/-! ### The data periods -/

theorem toNat_ofNat_of_fits {c : Config} {us : Nat} (hfit : c.TimesFit) (h : us < 2 ^ c.tmrW) :
    (BitVec.ofNat 16 us).toNat = us := by
  rw [← timerWord_of_fits h, timerWord_toNat h hfit.1]

/-- The ON-duration of a data bit is its parameter's value (R250 (a)). -/
theorem dataOn_toNat {c : Config} (hwf : c.WellFormed) (f : Frame) (k : Nat) :
    (dataOn c f k).toNat = if frameBit f k = 1 then c.data1On else c.data0On := by
  have hfit := timesFit_of_wellFormed hwf
  have ⟨_, _, _, _, h0, h1, _⟩ := hfit
  unfold dataOn
  split
  · exact toNat_ofNat_of_fits hfit h1
  · exact toNat_ofNat_of_fits hfit h0

/-- A data bit's ON-duration lies strictly inside the data period (R250 (a)). -/
theorem dataOn_inside {c : Config} (hwf : c.WellFormed) (f : Frame) (k : Nat) :
    0 < (dataOn c f k).toNat ∧ (dataOn c f k).toNat < (BitVec.ofNat 16 c.dataPer).toNat := by
  have ⟨⟨_, h0, ⟨h1pos, h1, hper⟩, _⟩, _⟩ := hwf
  rw [dataOn_toNat hwf, toNat_ofNat_of_fits (timesFit_of_wellFormed hwf) hper]
  split
  · exact ⟨h1pos, h1⟩
  · exact h0

/-- The tail's ON-duration lies strictly inside the tail period (R250 (a)). -/
theorem tailOn_inside {c : Config} (hwf : c.WellFormed) :
    0 < (BitVec.ofNat 16 c.tailOn).toNat ∧ (BitVec.ofNat 16 c.tailOn).toNat < (BitVec.ofNat 16 c.tailPer).toNat := by
  have hfit := timesFit_of_wellFormed hwf
  have ⟨⟨_, _, _, hpos, hlt, hper⟩, _⟩ := hwf
  rw [toNat_ofNat_of_fits hfit hper, toNat_ofNat_of_fits hfit (hlt.trans hper)]
  exact ⟨hpos, hlt⟩

/-- An inverted period whose ON-duration is not 0 begins with a low line (R314). -/
theorem waveLevel_zero_of_inverted {per cc : Micros} (h : 0 < cc.toNat) : waveLevel per cc true 0 = false := by
  rw [waveLevel_zero, decide_eq_true h]
  rfl

theorem compareDue_of_atDataPeriod {k : Nat} {s : State} (hwf : s.cfg.WellFormed) (h : AtDataPeriod k s) :
    compareDue s.ch = true := by
  obtain ⟨-, -, -, hen, hcmp, hdone, hper, hcc, -⟩ := h
  refine (compareDue_eq_true_iff _).2 ⟨hen, hcmp, ?_, hdone⟩
  rw [hper, hcc]
  exact (dataOn_inside hwf _ _).2

theorem compareDue_of_atTailPeriod {s : State} (hwf : s.cfg.WellFormed) (h : AtTailPeriod s) :
    compareDue s.ch = true := by
  obtain ⟨-, -, -, hen, hcmp, hdone, hper, hcc, -⟩ := h
  refine (compareDue_eq_true_iff _).2 ⟨hen, hcmp, ?_, hdone⟩
  rw [hper, hcc]
  exact (tailOn_inside hwf).2

/-- An overflow event that brings the index to `j` with bit `j`'s ON-duration loaded begins data period `j` (R254,
R257): from the marker period with the polarity not yet inverted, else with the data period's loads standing. -/
theorem atDataPeriod_overflowed {u : State} {j : Nat} (hwf : u.cfg.WellFormed) (hj : j < 64)
    (hstate : u.tx.state = UnitState.run.code) (hidx : u.tx.bitIndex + 1 = j) (hen : u.ch.tmrEn = true)
    (hcmp : u.ch.cmpEn = true) (hcc : u.ch.ccB = dataOn u.cfg u.tx.frame j)
    (hloads : (j = 0 ∧ u.tx.invert = false) ∨
      (0 < j ∧ u.tx.invert = true ∧ u.ch.perB = BitVec.ofNat 16 u.cfg.dataPer ∧ u.ch.invB = true)) :
    AtDataPeriod j u.overflowed ∧ u.overflowed.ch.tmrOut = false := by
  obtain ⟨-, -, -, hper, -⟩ := timesFit_of_wellFormed hwf
  have h65 : (j : Int) ≠ 65 := by omega
  have hloaded : overflowTx j u.tx = { u.tx with bitIndex := j, invert := true } ∧
      overflowLoads u.cfg j u.tx u.ch = { u.ch with perB := BitVec.ofNat 16 u.cfg.dataPer, invB := true } := by
    rcases hloads with ⟨rfl, hinv⟩ | ⟨hpos, hinv, hperB, hinvB⟩
    · simp [overflowTx, overflowLoads, hinv, timerWord_of_fits hper]
    · have h0 : j ≠ 0 := by omega
      have h1 : (j : Int) ≠ -1 := by omega
      have h64 : (j : Int) ≠ 64 := by omega
      simp [overflowTx, overflowLoads, hinv, hperB, hinvB, h0, h1, h64, h65]
  obtain ⟨htx, hch⟩ := hloaded
  rw [overflowed_of_running hwf hidx (by omega) (by omega) hen, htx, hch]
  refine ⟨⟨hstate, rfl, rfl, hen, hcmp, rfl, rfl, hcc, rfl, rfl, rfl, rfl⟩, ?_⟩
  refine waveLevel_zero_of_inverted ?_
  change 0 < u.ch.ccB.toNat
  rw [hcc]
  exact (dataOn_inside hwf _ _).1

section DataPeriod

variable {k : Nat} {s u : State} (hwf : s.cfg.WellFormed) (h : AtDataPeriod k s) (hu : DeliveredFrom s.compared u)
include hwf h hu

/-- Data period `k < 63` leads to data period `k + 1` (R257). -/
theorem atDataPeriod_succ (hk : k < 63) : AtDataPeriod (k + 1) u.overflowed ∧ u.overflowed.ch.tmrOut = false := by
  obtain ⟨hstate, hidx, hinv, hen, hcmp, -, -, -, -, hperB, hinvB, -⟩ := h
  obtain ⟨rx, es, r, rfl⟩ := hu
  have hidx' : s.tx.bitIndex + 1 = (k + 1 : Nat) := by rw [hidx]; rfl
  refine atDataPeriod_overflowed hwf (by omega) hstate hidx' hen hcmp ?_ (.inr ⟨by omega, hinv, hperB, hinvB⟩)
  have hload := compareLoad_ccB_of_dataBits (frameShape_of_wellFormed hwf).1 (timesFit_of_wellFormed hwf) hidx' s.ch
  rw [if_neg (by omega), if_pos (by omega), Int.toNat_natCast] at hload
  exact hload

/-- Data period 63 leads to the tail period (R257). -/
theorem atTailPeriod_of_last (hk : k = 63) : AtTailPeriod u.overflowed ∧ u.overflowed.ch.tmrOut = false := by
  subst hk
  obtain ⟨hstate, hidx, hinv, hen, hcmp, -, -, -, -, -, hinvB, -⟩ := h
  have hidx' : s.tx.bitIndex + 1 = 64 := by rw [hidx]; rfl
  have hload : (compareLoad s.cfg s.tx s.ch).ccB = BitVec.ofNat 16 s.cfg.tailOn :=
    compareLoad_ccB_of_dataBits (frameShape_of_wellFormed hwf).1 (timesFit_of_wellFormed hwf) hidx' s.ch
  obtain ⟨hcfg, htx, hch, hnow, hstart⟩ := overflowed_of_compared hwf hen hu hidx' (by decide) (by decide)
  obtain ⟨-, -, -, -, -, -, hper, -⟩ := timesFit_of_wellFormed hwf
  rw [AtTailPeriod, hcfg, htx, hch, hnow, hstart, hload]
  refine ⟨⟨hstate, rfl, hinv, hen, hcmp, rfl, timerWord_of_fits hper, rfl, hinvB, rfl⟩, ?_⟩
  change waveLevel _ (BitVec.ofNat 16 s.cfg.tailOn) s.ch.invB 0 = false
  rw [hinvB]
  exact waveLevel_zero_of_inverted (tailOn_inside hwf).1

/-- A data period lasts `DATA_PER`, and keeps the frame (R257). -/
theorem overflowed_of_dataPeriod (hk : k < 64) :
    u.overflowed.tx.frame = s.tx.frame ∧ u.overflowed.now = s.now + s.cfg.dataPer := by
  obtain ⟨-, hidx, -, hen, -, -, hper, -, -, -, -, hstart⟩ := h
  have hidx' : s.tx.bitIndex + 1 = (k + 1 : Nat) := by rw [hidx]; rfl
  obtain ⟨-, htx, -, hnow, -⟩ := overflowed_of_compared hwf hen hu hidx' (by omega) (by omega)
  have hfit := timesFit_of_wellFormed hwf
  have ⟨_, _, _, hdper, _⟩ := hfit
  rw [htx, hnow, hstart, hper, toNat_ofNat_of_fits hfit hdper]
  exact ⟨rfl, rfl⟩

end DataPeriod

/-- The tail period lasts `TAIL_PER` and leads to STOP, with the channel stopped and the line low (R257). -/
theorem overflowed_of_tailPeriod {s u : State} (hwf : s.cfg.WellFormed) (h : AtTailPeriod s)
    (hu : DeliveredFrom s.compared u) :
    u.overflowed.tx = { s.tx with bitIndex := 65, state := UnitState.stop.code } ∧ u.overflowed.ch.tmrEn = false ∧
    u.overflowed.ch.tmrOut = false ∧ u.overflowed.now = s.now + s.cfg.tailPer := by
  obtain ⟨-, hidx, -, -, -, -, hper, -, -, hnow⟩ := h
  obtain ⟨rx, es, r, rfl⟩ := hu
  have h := overflowed_of_tail (s := { s.compared with rx := rx, edges := es, response := r }) hwf hidx
  rw [h]
  have hfit := timesFit_of_wellFormed hwf
  have ⟨_, _, _, _, _, _, htper, _⟩ := hfit
  refine ⟨rfl, rfl, rfl, ?_⟩
  change s.periodStart + s.ch.per.toNat = _
  rw [hnow, hper, toNat_ofNat_of_fits hfit htper]

/-- At the start of a period with its compare event ahead, the channel's two events run one after the other (R113,
R318). -/
theorem runInstrs_pseudoPeriod {s : State} (hdue : compareDue s.ch = true) (hnow : s.periodStart = s.now) :
    runInstrs pseudoPeriod s = .next s.compared.overflowed := by
  rw [pseudoPeriod, runInstrs_cons (exec_txCmp_of_due hdue (by omega)), runInstrs_singleton]
  exact exec_txOvf_of_compared hdue (DeliveredFrom.refl _)

theorem periodStart_of_atDataPeriod {k : Nat} {s : State} (h : AtDataPeriod k s) : s.periodStart = s.now := by
  obtain ⟨-, -, -, -, -, -, -, -, -, -, -, hnow⟩ := h
  exact hnow

theorem periodStart_of_atTailPeriod {s : State} (h : AtTailPeriod s) : s.periodStart = s.now := by
  obtain ⟨-, -, -, -, -, -, -, -, -, hnow⟩ := h
  exact hnow

/-- Settles O38: one period's two events, by the row of R257. -/
theorem transmissionFollowsTheSchedule : Obligations.TransmissionFollowsTheSchedule := by
  intro s hwf
  have hrefl := DeliveredFrom.refl s.compared
  refine ⟨fun k hk h => ?_, fun h => ?_, fun h => ?_⟩
  · obtain ⟨hframe, hnow⟩ := overflowed_of_dataPeriod hwf h hrefl (by omega)
    exact ⟨_, runInstrs_pseudoPeriod (compareDue_of_atDataPeriod hwf h) (periodStart_of_atDataPeriod h),
      (atDataPeriod_succ hwf h hrefl hk).1, hframe, hnow⟩
  · obtain ⟨hframe, hnow⟩ := overflowed_of_dataPeriod hwf h hrefl (by omega)
    exact ⟨_, runInstrs_pseudoPeriod (compareDue_of_atDataPeriod hwf h) (periodStart_of_atDataPeriod h),
      (atTailPeriod_of_last hwf h hrefl rfl).1, hframe, hnow⟩
  · obtain ⟨htx, hen, hout, hnow⟩ := overflowed_of_tailPeriod hwf h hrefl
    exact ⟨_, runInstrs_pseudoPeriod (compareDue_of_atTailPeriod hwf h) (periodStart_of_atTailPeriod h),
      by rw [htx]; rfl, by rw [htx], by rw [htx], hen, hout, hnow⟩

end Sys2Proof.Machine

namespace Sys2Proof.Machine

open Sys2Proof

/-! ## Runs of a transmission -/

/-! ### Runs of steps -/

/-- `k` steps lead from `s` to `t`. -/
def Reaches (k : Nat) (s t : State) : Prop :=
  Sys2Proof.core.run k s = .next t

theorem Reaches.refl (s : State) : Reaches 0 s s := rfl

/-- A run of `k + 1` steps is a step and a run of `k`. -/
theorem reaches_succ_iff {k : Nat} {s u : State} : Reaches (k + 1) s u ↔ ∃ t, step s = .next t ∧ Reaches k t u := by
  have hcore : Sys2Proof.core.step s = step s := rfl
  simp only [Reaches, Host.Core.run, hcore]
  cases step s with
  | next t => exact ⟨fun h => ⟨t, rfl, h⟩, fun ⟨_, e, h⟩ => by cases e; exact h⟩
  | fault r => exact iff_of_false (fun h => nomatch h) (fun ⟨_, e, _⟩ => nomatch e)
  | refused r => exact iff_of_false (fun h => nomatch h) (fun ⟨_, e, _⟩ => nomatch e)

theorem Reaches.head {k : Nat} {s t u : State} (h : step s = .next t) (ht : Reaches k t u) : Reaches (k + 1) s u :=
  reaches_succ_iff.2 ⟨t, h, ht⟩

theorem reaches_one {s t : State} (h : step s = .next t) : Reaches 1 s t := .head h (.refl t)

theorem Reaches.trans {j k : Nat} {s t u : State} (h : Reaches j s t) (ht : Reaches k t u) : Reaches (j + k) s u := by
  induction j generalizing s with
  | zero => cases h; rwa [Nat.zero_add]
  | succ j ih =>
    obtain ⟨s', hs, h'⟩ := reaches_succ_iff.1 h
    rw [Nat.succ_add]
    exact .head hs (ih h')

/-! ### Quiet states -/

/-- No operation writes the list of turns (log entry 1). -/
theorem exec_pending {i : Instr} {s t : State} (h : exec i s = .next t) : t.pending = s.pending := by
  cases hi : isTx i with
  | false => obtain ⟨rx, r, rfl⟩ := exec_next_of_not_tx hi h; rfl
  | true =>
    cases i with
    | txInit => cases h; rfl
    | txSend f => cases h; rfl
    | txStop => cases h; rfl
    | txOvf =>
      rw [exec_txOvf] at h
      cases h
      obtain ⟨-, -, -, hp, -⟩ := overflowNow_atOverflow_frame s
      exact hp
    | txCmp =>
      rw [exec_txCmp] at h
      cases h
      obtain ⟨_, _, _, _, hat, -⟩ := atCompare_frame s
      rw [hat]
      rfl
    | _ => cases hi

/-- A state with legal state registers in which nothing is pending, of the configuration `c`, its loopback wired or not:
its steps are the loopback's and the channel's (log entry 2). -/
structure Quiet (c : Config) (wired : Bool) (s : State) : Prop where
  cfg : s.cfg = c
  loopback : s.loopback = wired
  legal : reservedState s = none
  pending : s.pending = []

section Quiet

variable {c : Config} {wired : Bool} {s t : State}

/-- Every operation leaves a quiet state quiet. -/
theorem Quiet.after {i : Instr} (hq : Quiet c wired s) (h : exec i s = .next t) : Quiet c wired t := by
  obtain ⟨hcfg, hloop⟩ := exec_cfg_loopback h
  obtain ⟨hrx, htx⟩ := exec_keeps_legal h
  obtain ⟨hrx', htx'⟩ := (reservedState_eq_none_iff s).1 hq.legal
  exact ⟨hcfg.trans hq.cfg, hloop.trans hq.loopback,
    (reservedState_eq_none_iff t).2 ⟨fun e => hrx' (hrx e), fun e => htx' (htx e)⟩, (exec_pending h).trans hq.pending⟩

theorem Quiet.setEdges (hq : Quiet c wired s) (es : List LineEdge) : Quiet c wired { s with edges := es } :=
  ⟨hq.cfg, hq.loopback, hq.legal, hq.pending⟩

/-- With no transition on its way, a quiet state's next step is its channel's next event (R318). -/
theorem Quiet.step_channel {i : Instr} (hq : Quiet c wired s) (he : s.edges = []) (hi : channelNext s.ch = some i)
    (h : exec i s = .next t) : step s = .next t := by
  rw [step_of_none_pending hq.legal hq.pending he, channelStep, hi]
  exact h

theorem Quiet.step_compared (hq : Quiet c wired s) (he : s.edges = []) (hdue : compareDue s.ch = true)
    (hnow : s.periodStart = s.now) : step s = .next s.compared ∧ Quiet c wired s.compared := by
  have h := exec_txCmp_of_due hdue (by omega)
  refine ⟨hq.step_channel he ?_ h, hq.after h⟩
  exact (channelNext_eq_some_iff _ _).2 ⟨compareDue_running hdue, .inl ⟨hdue, rfl⟩⟩

theorem Quiet.step_overflowed (hq : Quiet c wired s) (he : s.edges = []) (hen : s.ch.tmrEn = true)
    (hdue : compareDue s.ch = false) (h : exec .txOvf s = .next s.overflowed) :
    step s = .next s.overflowed ∧ Quiet c wired s.overflowed :=
  ⟨hq.step_channel he ((channelNext_eq_some_iff _ _).2 ⟨hen, .inr ⟨hdue, rfl⟩⟩) h, hq.after h⟩

/-- After the compare event and whatever deliveries, the next step is the period's overflow event (R318). -/
theorem Quiet.step_overflowed_of_compared {u : State} (hq : Quiet c wired u) (he : u.edges = [])
    (hdue : compareDue s.ch = true) (hu : DeliveredFrom s.compared u) :
    step u = .next u.overflowed ∧ Quiet c wired u.overflowed := by
  refine hq.step_overflowed he ?_ ?_ (exec_txOvf_of_compared hdue hu)
  · obtain ⟨rx, es, r, rfl⟩ := hu
    exact compareDue_running (ch := s.ch) hdue
  · obtain ⟨rx, es, r, rfl⟩ := hu
    simp [compareDue, State.compared]

end Quiet

theorem compared_edges (s : State) :
    s.compared.edges = s.edges ++
      (if s.loopback then levelChange s.ch.tmrOut s.ch.inv (s.periodStart + s.ch.cc.toNat) else []) := rfl

/-- The overflow event's transition is the change of the level at the boundary (R315, R320). -/
theorem overflowed_edges (s : State) :
    s.overflowed.edges = s.edges ++
      (if s.loopback then levelChange s.ch.tmrOut s.overflowed.ch.tmrOut (s.periodStart + s.ch.per.toNat) else []) := by
  unfold State.overflowed State.overflowNow
  split <;> rfl

theorem overflowed_rx (s : State) : s.overflowed.rx = s.rx := State.overflowNow_rx (s.setNow _)

/-! ### The propagation period and the marker period -/

/-- The start of the propagation period (R257's row P0): the marker's loads stand ready, the active registers are
whatever they were (R252, R316). -/
structure AtPropagation (f : Frame) (s : State) : Prop where
  tx : s.tx = { frame := f, bitIndex := -2, state := UnitState.run.code, invert := false }
  running : s.ch.tmrEn = true
  cmpEn : s.ch.cmpEn = true
  perB : s.ch.perB = BitVec.ofNat 16 s.cfg.markerPer
  ccB : s.ch.ccB = BitVec.ofNat 16 s.cfg.markerOn
  cmpDone : s.ch.cmpDone = false
  out : s.ch.tmrOut = waveLevel s.ch.per s.ch.cc s.ch.inv 0
  start : s.periodStart = s.now

/-- The propagation period with its overflow event next, the line at the period's last level. -/
structure EndsPropagation (f : Frame) (s : State) : Prop where
  tx : s.tx = { frame := f, bitIndex := -2, state := UnitState.run.code, invert := false }
  running : s.ch.tmrEn = true
  cmpEn : s.ch.cmpEn = true
  perB : s.ch.perB = BitVec.ofNat 16 s.cfg.markerPer
  ccB : s.ch.ccB = BitVec.ofNat 16 s.cfg.markerOn
  notDue : compareDue s.ch = false
  out : s.ch.tmrOut = lastLevel s.ch
  now : s.now ≤ s.periodStart + s.ch.per.toNat

/-- The start of the marker period (R257's row P1). -/
structure AtMarkerPeriod (f : Frame) (s : State) : Prop where
  tx : s.tx = { frame := f, bitIndex := -1, state := UnitState.run.code, invert := false }
  ch : s.ch = { tmrEn := true, cmpEn := true, cmpDone := false
                per := BitVec.ofNat 16 s.cfg.markerPer, cc := BitVec.ofNat 16 s.cfg.markerOn, inv := false
                perB := BitVec.ofNat 16 s.cfg.markerPer, ccB := BitVec.ofNat 16 s.cfg.markerOn, invB := false
                tmrOut := true }
  start : s.periodStart = s.now

/-- TX.SEND begins the propagation period (R252, R257). -/
theorem atPropagation_sent (f : Frame) {s : State} (hwf : s.cfg.WellFormed) : AtPropagation f (s.sent f) := by
  obtain ⟨-, hper, hon, -⟩ := timesFit_of_wellFormed hwf
  refine ⟨?_, rfl, rfl, timerWord_of_fits hper, timerWord_of_fits hon, rfl, rfl, rfl⟩
  rw [← startIndex_of_wellFormed hwf]
  rfl

theorem AtPropagation.of_deliveredFrom {f : Frame} {s t : State} (h : AtPropagation f s) (ht : DeliveredFrom s t) :
    AtPropagation f t := by
  obtain ⟨rx, es, r, rfl⟩ := ht
  exact ⟨h.tx, h.running, h.cmpEn, h.perB, h.ccB, h.cmpDone, h.out, h.start⟩

theorem AtMarkerPeriod.of_deliveredFrom {f : Frame} {s t : State} (h : AtMarkerPeriod f s) (ht : DeliveredFrom s t) :
    AtMarkerPeriod f t := by
  obtain ⟨rx, es, r, rfl⟩ := ht
  exact ⟨h.tx, h.ch, h.start⟩

/-- With the active compare point not inside the active period, the propagation period has no compare event (R318). -/
theorem AtPropagation.ends_of_not_due {f : Frame} {s : State} (h : AtPropagation f s) (hdue : compareDue s.ch = false) :
    EndsPropagation f s := by
  refine ⟨h.tx, h.running, h.cmpEn, h.perB, h.ccB, hdue, ?_, h.start ▸ Nat.le_add_right _ _⟩
  have hper : s.ch.per.toNat ≤ s.ch.cc.toNat := by
    by_contra hlt
    rw [(compareDue_eq_true_iff _).2 ⟨h.running, h.cmpEn, by omega, h.cmpDone⟩] at hdue
    cases hdue
  rw [h.out, waveLevel_zero_of_per_le hper]

/-- Otherwise the compare event comes first, and loads nothing at index -2 (R255, R257). -/
theorem AtPropagation.ends_of_compared {f : Frame} {s u : State} (h : AtPropagation f s) (hwf : s.cfg.WellFormed)
    (hdue : compareDue s.ch = true) (hu : DeliveredFrom s.compared u) : EndsPropagation f u := by
  obtain ⟨-, -, hcc, -⟩ := (compareDue_eq_true_iff _).1 hdue
  have hidx : s.tx.bitIndex + 1 = -1 := by rw [h.tx]; rfl
  have hload : (compareLoad s.cfg s.tx s.ch).ccB = s.ch.ccB :=
    compareLoad_ccB_of_dataBits (frameShape_of_wellFormed hwf).1 (timesFit_of_wellFormed hwf) hidx s.ch
  obtain ⟨rx, es, r, rfl⟩ := hu
  refine ⟨h.tx, h.running, h.cmpEn, h.perB, hload.trans h.ccB, ?_, ?_, Nat.add_le_add_left hcc.le _⟩
  · simp [compareDue, State.compared]
  · exact (lastLevel_of_cc_lt_per (ch := s.ch) hcc).symm

theorem EndsPropagation.overflow {f : Frame} {u : State} (h : EndsPropagation f u) :
    exec .txOvf u = .next u.overflowed :=
  exec_txOvf_of_due h.running h.notDue h.now h.out

/-- The propagation period leads to the marker period, at its `PER` (R257). -/
theorem EndsPropagation.atMarkerPeriod {f : Frame} {u : State} (h : EndsPropagation f u) (hwf : u.cfg.WellFormed) :
    AtMarkerPeriod f u.overflowed ∧ u.overflowed.now = u.periodStart + u.ch.per.toNat := by
  have hidx : u.tx.bitIndex + 1 = -1 := by rw [h.tx]; rfl
  have hlevel : waveLevel (BitVec.ofNat 16 u.cfg.markerPer) (BitVec.ofNat 16 u.cfg.markerOn) false 0 = true := by
    have hfit := timesFit_of_wellFormed hwf
    have ⟨_, _, hon, _⟩ := hfit
    have ⟨⟨⟨hpos, _⟩, _⟩, _⟩ := hwf
    rw [waveLevel_zero, toNat_ofNat_of_fits hfit hon, decide_eq_true hpos]
    rfl
  have hload : latch (overflowLoads u.cfg (-1) u.tx u.ch) =
      { tmrEn := true, cmpEn := true, cmpDone := false
        per := BitVec.ofNat 16 u.cfg.markerPer, cc := BitVec.ofNat 16 u.cfg.markerOn, inv := false
        perB := BitVec.ofNat 16 u.cfg.markerPer, ccB := BitVec.ofNat 16 u.cfg.markerOn, invB := false
        tmrOut := true } := by
    simp [latch, overflowLoads, h.tx, h.running, h.cmpEn, h.perB, h.ccB, hlevel]
  rw [overflowed_of_running hwf hidx (by decide) (by decide) h.running, hload, h.tx]
  exact ⟨⟨rfl, rfl, rfl⟩, rfl⟩

theorem AtMarkerPeriod.due {f : Frame} {s : State} (h : AtMarkerPeriod f s) (hwf : s.cfg.WellFormed) :
    compareDue s.ch = true := by
  have hfit := timesFit_of_wellFormed hwf
  have ⟨_, hper, hon, _⟩ := hfit
  have ⟨⟨⟨_, hlt, _⟩, _⟩, _⟩ := hwf
  rw [compareDue_eq_true_iff, h.ch]
  refine ⟨rfl, rfl, ?_, rfl⟩
  rw [toNat_ofNat_of_fits hfit hon, toNat_ofNat_of_fits hfit hper]
  exact hlt

/-- The marker period leads to data period 0, `MARKER_PER` later (R257). -/
theorem AtMarkerPeriod.atDataPeriod {f : Frame} {s u : State} (h : AtMarkerPeriod f s) (hwf : s.cfg.WellFormed)
    (hu : DeliveredFrom s.compared u) :
    (AtDataPeriod 0 u.overflowed ∧ u.overflowed.ch.tmrOut = false) ∧ u.overflowed.tx.frame = f ∧
    u.overflowed.now = s.now + s.cfg.markerPer := by
  have hidx : s.tx.bitIndex + 1 = 0 := by rw [h.tx]; rfl
  have hen : s.ch.tmrEn = true := by rw [h.ch]
  have hload : (compareLoad s.cfg s.tx s.ch).ccB = dataOn s.cfg s.tx.frame 0 :=
    compareLoad_ccB_of_dataBits (frameShape_of_wellFormed hwf).1 (timesFit_of_wellFormed hwf) hidx s.ch
  obtain ⟨-, htx, -, hnow, -⟩ := overflowed_of_compared hwf hen hu hidx (by decide) (by decide)
  refine ⟨?_, ?_, ?_⟩
  · obtain ⟨rx, es, r, rfl⟩ := hu
    refine atDataPeriod_overflowed hwf (by decide) ?_ hidx hen ?_ hload (.inl ⟨rfl, ?_⟩)
    · change s.tx.state = _; rw [h.tx]
    · change s.ch.cmpEn = _; rw [h.ch]
    · change s.tx.invert = _; rw [h.tx]
  · rw [htx, h.tx]; rfl
  · have hfit := timesFit_of_wellFormed hwf
    have ⟨_, hper, _⟩ := hfit
    rw [hnow, h.start, h.ch]
    change s.now + (BitVec.ofNat 16 s.cfg.markerPer).toNat = _
    rw [toNat_ofNat_of_fits hfit hper]

/-- Without the loopback at most one step, the compare event's, leads to the end of the propagation period (R257). -/
theorem AtPropagation.reaches_end_of_unwired {c : Config} {f : Frame} {s : State} (h : AtPropagation f s)
    (hwf : s.cfg.WellFormed) (hq : Quiet c false s) (he : s.edges = []) :
    ∃ k t, k ≤ 1 ∧ Reaches k s t ∧ Quiet c false t ∧ t.edges = [] ∧ EndsPropagation f t ∧
      t.periodStart = s.periodStart ∧ t.ch.per = s.ch.per := by
  cases hdue : compareDue s.ch with
  | false => exact ⟨0, s, by decide, .refl s, hq, he, h.ends_of_not_due hdue, rfl, rfl⟩
  | true =>
    obtain ⟨hstep, hq'⟩ := hq.step_compared he hdue h.start
    refine ⟨1, _, le_rfl, reaches_one hstep, hq', ?_, h.ends_of_compared hwf hdue (.refl _), rfl, rfl⟩
    rw [compared_edges, he, hq.loopback]
    rfl

/-- Without the loopback two steps lead from the marker period to data period 0, `MARKER_PER` later (R257). -/
theorem AtMarkerPeriod.reaches_dataPeriod_of_unwired {c : Config} {f : Frame} {s : State} (h : AtMarkerPeriod f s)
    (hwf : s.cfg.WellFormed) (hq : Quiet c false s) (he : s.edges = []) :
    ∃ t, Reaches 2 s t ∧ AtDataPeriod 0 t ∧ t.tx.frame = f ∧ t.now = s.now + s.cfg.markerPer := by
  obtain ⟨hstep₁, hq₁⟩ := hq.step_compared he (h.due hwf) h.start
  have he₁ : s.compared.edges = [] := by rw [compared_edges, he, hq.loopback]; rfl
  obtain ⟨hstep₂, -⟩ := hq₁.step_overflowed_of_compared he₁ (h.due hwf) (.refl _)
  obtain ⟨⟨hdata, -⟩, hframe, hnow⟩ := h.atDataPeriod hwf (.refl _)
  exact ⟨_, .head hstep₁ (reaches_one hstep₂), hdata, hframe, hnow⟩

/-- Settles O39: without the loopback every step is the channel's; the propagation period has a compare event or none,
by its active registers, and ends in the marker period either way. -/
theorem transmissionBeginsWithTheMarker : Obligations.TransmissionBeginsWithTheMarker := by
  intro f s hwf hloop hlegal hedges hpend
  have hq : Quiet s.cfg false (s.sent f) := Quiet.after ⟨rfl, hloop, hlegal, hpend⟩ (exec_txSend f s)
  have he : (s.sent f).edges = [] := by simp [sent_edges, hloop, hedges]
  obtain ⟨k, u, hk, hreach, hqu, heu, hends, hstart, hper⟩ :=
    (atPropagation_sent f hwf).reaches_end_of_unwired hwf hq he
  obtain ⟨hstep, hq₁⟩ := hqu.step_overflowed heu hends.running hends.notDue hends.overflow
  obtain ⟨hmark, hnow⟩ := hends.atMarkerPeriod (by rw [hqu.cfg]; exact hwf)
  have he₁ : u.overflowed.edges = [] := by rw [overflowed_edges, heu, hqu.loopback]; rfl
  obtain ⟨t, hreach', hdata, hframe, hnow'⟩ :=
    hmark.reaches_dataPeriod_of_unwired (by rw [hq₁.cfg]; exact hwf) hq₁ he₁
  refine ⟨_, k + 1, u.overflowed, t, exec_txSend f s, by omega, hreach.trans (reaches_one hstep), ?_, hmark.start, ?_,
    hreach', hdata, hframe, ?_⟩
  · rw [hnow, hstart, hper]; rfl
  · rw [hmark.ch, hq₁.cfg]
  · rw [hnow', hq₁.cfg]

end Sys2Proof.Machine

namespace Sys2Proof.Machine

open Sys2Proof

/-! ## The round trip -/

/-! ### The delivery of the line's transitions -/

/-- In a legal state RX.FALL ends in a next state (R45, R142). -/
theorem exec_rxFall_of_legal (x : Timestamp) {s : State} (h : s.rx.state ≠ 3#2) :
    ∃ t, exec (.rxFall x) s = .next t := by
  by_cases hgate : s.rx.riseValid = true ∧ fallExceedsRise s.cfg (timestampDiff s.cfg x s.rx.lastRise) = true
  · obtain ⟨hv, hx⟩ := hgate
    obtain ⟨t, ht, -⟩ := exec_rxPulse_of_legal (timestampDiff s.cfg x s.rx.lastRise)
      (s := s.setRx { s.rx with lastFall := lowBits s.cfg.tsW x }) h
    exact ⟨t, by rw [exec_rxFall_of_exceeds hv hx, ht]⟩
  · exact ⟨_, exec_rxFall_of_not_exceeds fun hv => Bool.eq_false_iff.2 fun hx => hgate ⟨hv, hx⟩⟩

/-- An RX operation on a state without some of its transitions writes what a delivery writes (R57). -/
theorem deliveredFrom_of_exec_rx {i : Instr} {s t : State} {more : List LineEdge} (hi : isRx i = true)
    (h : exec i { s with edges := more } = .next t) : DeliveredFrom s t ∧ t.edges = more := by
  obtain ⟨rx, r, rfl, -⟩ := exec_rx hi h
  exact ⟨⟨rx, more, r, rfl⟩, rfl⟩

/-- RX has recorded a rising edge of the time `T` as the latest one (R35, R141). -/
def RoseAt (T : Nat) (s : State) : Prop :=
  s.rx.riseValid = true ∧ s.rx.lastRise = lowBits s.cfg.tsW (BitVec.ofNat 32 T)

/-- Where the line is at the level high, RX has seen it rise, at `t₀` or later. -/
def SeenHigh (t₀ : Nat) (high : Bool) (s : State) : Prop :=
  high = true → ∃ T, t₀ ≤ T ∧ T ≤ s.now ∧ RoseAt T s

theorem seenHigh_low (t₀ : Nat) (s : State) : SeenHigh t₀ false s := fun h => nomatch h

section Delivery

variable {c : Config} {s : State}

/-- The delivery of a rising edge records its time (R141, R320). -/
theorem Quiet.step_rise {T : Nat} {more : List LineEdge} (hq : Quiet c true s) (he : s.edges = ⟨.rising, T⟩ :: more) :
    ∃ t, step s = .next t ∧ Quiet c true t ∧ DeliveredFrom s t ∧ t.edges = more ∧ RoseAt T t ∧
      t.rx = { s.rx with lastRise := lowBits s.cfg.tsW (BitVec.ofNat 32 T), riseValid := true } := by
  have hexec : exec (.rxRise (BitVec.ofNat 32 T)) { s with edges := more } = .next _ := rfl
  obtain ⟨hd, hmore⟩ := deliveredFrom_of_exec_rx rfl hexec
  exact ⟨_, step_of_edge hq.legal hq.pending he, (hq.setEdges more).after hexec, hd, hmore, ⟨rfl, rfl⟩, rfl⟩

/-- Where the line has changed or not at this instant, and RX has seen an unchanged high line rise, the delivery takes
at most one step, after which RX has seen a high line rise (R308 (d), R320). -/
theorem Quiet.reaches_delivered {b b' : Bool} {t₀ : Nat} {more : List LineEdge} (hq : Quiet c true s)
    (he : s.edges = levelChange b b' s.now ++ more) (ht : t₀ ≤ s.now) (hseen : b = b' → SeenHigh t₀ b' s) :
    ∃ k t, k ≤ 1 ∧ Reaches k s t ∧ Quiet c true t ∧ DeliveredFrom s t ∧ t.edges = more ∧ SeenHigh t₀ b' t := by
  by_cases hsame : b = b'
  · refine ⟨0, s, by decide, .refl s, hq, .refl s, ?_, hseen hsame⟩
    rw [he, hsame, levelChange_same, List.nil_append]
  cases b' with
  | true =>
    cases b with
    | true => exact absurd rfl hsame
    | false =>
      obtain ⟨t, hstep, hq', hd, hmore, hrose, -⟩ := hq.step_rise he
      refine ⟨1, t, le_rfl, reaches_one hstep, hq', hd, hmore, fun _ => ⟨s.now, ht, ?_, hrose⟩⟩
      obtain ⟨_, _, _, rfl⟩ := hd
      exact le_rfl
  | false =>
    cases b with
    | false => exact absurd rfl hsame
    | true =>
      obtain ⟨hrx, -⟩ := (reservedState_eq_none_iff s).1 hq.legal
      obtain ⟨t, hexec⟩ := exec_rxFall_of_legal (BitVec.ofNat 32 s.now) (s := { s with edges := more }) hrx
      obtain ⟨hd, hmore⟩ := deliveredFrom_of_exec_rx rfl hexec
      exact ⟨1, t, le_rfl, reaches_one ((step_of_edge hq.legal hq.pending he).trans hexec),
        (hq.setEdges more).after hexec, hd, hmore, seenHigh_low _ _⟩

/-- The delivery of a falling edge `w` µs after the rise, `w` below half the timer's range, is the pulse `w` (R142). -/
theorem Quiet.step_fall {T w : Nat} (hq : Quiet c true s) (he : s.edges = [⟨.falling, T + w⟩]) (hrose : RoseAt T s)
    (hts : c.tsW ≤ 32) (hpos : 0 < w) (hw : w < 2 ^ (c.tsW - 1)) :
    ∃ x, step s = exec (.rxPulse (BitVec.ofNat 32 w)) x ∧ Quiet c true x ∧ DeliveredFrom s x ∧ x.edges = [] ∧
      x.rx = { s.rx with lastFall := lowBits c.tsW (BitVec.ofNat 32 (T + w)) } := by
  obtain ⟨hvalid, hlast⟩ := hrose
  obtain rfl := hq.cfg
  have hlt : w < 2 ^ s.cfg.tsW := hw.trans_le (Nat.pow_le_pow_right (by decide) (Nat.sub_le _ _))
  have hlt32 : w < 2 ^ 32 := hlt.trans_le (Nat.pow_le_pow_right (by decide) hts)
  have hdiff : timestampDiff s.cfg (BitVec.ofNat 32 (T + w)) s.rx.lastRise = BitVec.ofNat 32 w := by
    rw [hlast, timestampDiff_of_high hts hlt]
  have hexc : fallExceedsRise s.cfg (timestampDiff s.cfg (BitVec.ofNat 32 (T + w)) s.rx.lastRise) = true := by
    rw [hdiff, fallExceedsRise_eq_true_iff, BitVec.toNat_ofNat, Nat.mod_eq_of_lt hlt32]
    exact ⟨hpos, hw⟩
  have hfall : exec (.rxFall (BitVec.ofNat 32 (T + w))) { s with edges := [] } =
      exec (.rxPulse (BitVec.ofNat 32 w)) (({ s with edges := [] } : State).setRx
        { s.rx with lastFall := lowBits s.cfg.tsW (BitVec.ofNat 32 (T + w)) }) := by
    rw [← hdiff]
    exact exec_rxFall_of_exceeds hvalid hexc
  exact ⟨_, (step_of_edge hq.legal hq.pending he).trans hfall, ⟨rfl, hq.loopback, hq.legal, hq.pending⟩,
    ⟨_, _, _, rfl⟩, rfl, rfl⟩

end Delivery

/-! ### The propagation and the marker period through the loopback -/

/-- The widths of a well-formed configuration: a pulse of up to two periods is below half the timer's range, and such a
pulse reaches the classifier as it is (log entry 23). -/
theorem widths_of_wellFormed {c : Config} (hwf : c.WellFormed) :
    c.tsW ≤ 32 ∧ 2 * 2 ^ c.tmrW ≤ 2 ^ (c.tsW - 1) ∧
    ∀ w, w < 2 ^ (c.tsW - 1) → (BitVec.ofNat 32 w).toNat = w ∧ (BitVec.ofNat 32 w).toNat < 2 ^ c.pwW := by
  obtain ⟨-, -, -, -, -, -, -, -, -, ⟨hts, hpw, h32⟩, -⟩ := hwf
  have hle {k : Nat} (h : c.tsW - 1 ≤ k) : 2 ^ (c.tsW - 1) ≤ 2 ^ k := Nat.pow_le_pow_right (by decide) h
  refine ⟨by omega, ?_, fun w hw => ?_⟩
  · rw [← Nat.pow_succ']
    exact Nat.pow_le_pow_right (by decide) (by omega)
  · have hw32 : w < 2 ^ 32 := hw.trans_le (hle (by omega))
    rw [BitVec.toNat_ofNat, Nat.mod_eq_of_lt hw32]
    exact ⟨rfl, hw.trans_le (hle (by omega))⟩

section Propagation

variable {c : Config} {f : Frame} {s : State} (hwf : c.WellFormed)
include hwf

/-- After TX.SEND has come as the only turn and its transitions have been delivered, the propagation period begins, and
RX has seen a high line rise (R252, R320). -/
theorem reaches_propagation (hcfg : s.cfg = c) (hlegal : reservedState s = none) (hloop : s.loopback = true)
    (he : s.edges = []) (hp : s.pending = [.command .consumer (encode (.txSend f))]) :
    ∃ k t, k ≤ 3 ∧ Reaches k s t ∧ Quiet c true t ∧ t.edges = [] ∧ AtPropagation f t ∧ t.now = s.now ∧
      t.ch.per = s.ch.per ∧ SeenHigh s.now t.ch.tmrOut t := by
  subst hcfg
  have hdec : decode (encode (.txSend f)) = .ok (.txSend f, []) := by
    simpa using decodeReadsEveryEncodedOperation (.txSend f) []
  have hstep : step s = exec (.txSend f) { s with pending := [] } :=
    (stepRunsTheDecodedOperation .consumer _ [] (.txSend f) s [] hlegal hp hdec rfl).1 (.inl he)
  have hexec := exec_txSend f { s with pending := [] }
  have hq₀ : Quiet s.cfg true (({ s with pending := [] } : State).sent f) :=
    Quiet.after (s := { s with pending := [] }) ⟨rfl, hloop, hlegal, rfl⟩ hexec
  have he₀ : (({ s with pending := [] } : State).sent f).edges =
      levelChange s.ch.tmrOut false s.now ++ levelChange false (waveLevel s.ch.per s.ch.cc s.ch.inv 0) s.now := by
    rw [sent_edges]
    simp [he, hloop]
  obtain ⟨k₁, t₁, hk₁, hr₁, hq₁, hd₁, he₁, -⟩ := hq₀.reaches_delivered he₀ le_rfl (fun _ => seenHigh_low _ _)
  have hnow₁ : t₁.now = s.now := by obtain ⟨_, _, _, rfl⟩ := hd₁; rfl
  obtain ⟨k₂, t₂, hk₂, hr₂, hq₂, hd₂, he₂, hseen⟩ := hq₁.reaches_delivered (b := false) (more := []) (t₀ := s.now)
    (by rw [he₁, hnow₁, List.append_nil]) hnow₁.ge (fun h => h ▸ seenHigh_low _ _)
  have hd := hd₁.trans hd₂
  have hprop := (atPropagation_sent f (s := { s with pending := [] }) hwf).of_deliveredFrom hd
  refine ⟨k₁ + k₂ + 1, t₂, by omega, .head (hstep.trans hexec) (hr₁.trans hr₂), hq₂, he₂, hprop, ?_⟩
  obtain ⟨_, _, _, rfl⟩ := hd
  exact ⟨rfl, rfl, hseen⟩

/-- The propagation period leads to its overflow event, with RX having seen a high line rise (R257, R320). -/
theorem AtPropagation.reaches_end {t₀ : Nat} (h : AtPropagation f s) (hq : Quiet c true s) (he : s.edges = [])
    (ht : t₀ ≤ s.now) (hseen : SeenHigh t₀ s.ch.tmrOut s) :
    ∃ k t, k ≤ 2 ∧ Reaches k s t ∧ Quiet c true t ∧ t.edges = [] ∧ EndsPropagation f t ∧ t.periodStart = s.now ∧
      t.ch.per = s.ch.per ∧ SeenHigh t₀ t.ch.tmrOut t := by
  have hwf' : s.cfg.WellFormed := by rw [hq.cfg]; exact hwf
  cases hdue : compareDue s.ch with
  | false => exact ⟨0, s, by decide, .refl s, hq, he, h.ends_of_not_due hdue, h.start, rfl, hseen⟩
  | true =>
    obtain ⟨hstep, hq₁⟩ := hq.step_compared he hdue h.start
    have he₁ : s.compared.edges = levelChange s.ch.tmrOut s.ch.inv s.compared.now ++ [] := by
      rw [compared_edges, he, hq.loopback]
      exact (List.append_nil _).symm
    have hle : s.now ≤ s.compared.now := h.start ▸ Nat.le_add_right _ _
    have hseen₁ : s.ch.tmrOut = s.ch.inv → SeenHigh t₀ s.ch.inv s.compared := by
      intro hsame hhigh
      obtain ⟨T, hlo, hhi, hrose⟩ := hseen (hsame.trans hhigh)
      exact ⟨T, hlo, hhi.trans hle, hrose⟩
    obtain ⟨k, t, hk, hr, hq', hd, he', hseen'⟩ := hq₁.reaches_delivered he₁ (ht.trans hle) hseen₁
    refine ⟨k + 1, t, by omega, .head hstep hr, hq', he', h.ends_of_compared hwf' hdue hd, ?_⟩
    obtain ⟨_, _, _, rfl⟩ := hd
    exact ⟨h.start, rfl, hseen'⟩

/-- The end of the propagation period leads to the marker period, with RX having seen the line rise (R257, R320). -/
theorem EndsPropagation.reaches_marker {t₀ : Nat} (h : EndsPropagation f s) (hq : Quiet c true s) (he : s.edges = [])
    (ht : t₀ ≤ s.periodStart) (hseen : SeenHigh t₀ s.ch.tmrOut s) :
    ∃ k t, k ≤ 2 ∧ Reaches k s t ∧ Quiet c true t ∧ t.edges = [] ∧ AtMarkerPeriod f t ∧
      t.now = s.periodStart + s.ch.per.toNat ∧ SeenHigh t₀ true t := by
  have hwf' : s.cfg.WellFormed := by rw [hq.cfg]; exact hwf
  obtain ⟨hstep, hq₁⟩ := hq.step_overflowed he h.running h.notDue h.overflow
  obtain ⟨hmark, hnow⟩ := h.atMarkerPeriod hwf'
  have he₁ : s.overflowed.edges = levelChange s.ch.tmrOut true s.overflowed.now ++ [] := by
    rw [overflowed_edges, he, hq.loopback, hmark.ch, hnow]
    exact (List.append_nil _).symm
  have hseen₁ : s.ch.tmrOut = true → SeenHigh t₀ true s.overflowed := by
    intro hhigh _
    obtain ⟨T, hlo, hhi, hvalid, hlast⟩ := hseen hhigh
    refine ⟨T, hlo, hnow ▸ hhi.trans h.now, ?_, ?_⟩
    · rw [overflowed_rx, hvalid]
    · rw [overflowed_rx, hlast, hq.cfg, hq₁.cfg]
  obtain ⟨k, t, hk, hr, hq', hd, he', hseen'⟩ := hq₁.reaches_delivered he₁ (by omega) hseen₁
  refine ⟨k + 1, t, by omega, .head hstep hr, hq', he', hmark.of_deliveredFrom hd, ?_, hseen'⟩
  obtain ⟨_, _, _, rfl⟩ := hd
  exact hnow

end Propagation

/-! ### Reception -/

/-- The loopback's state after the first `k` bits of `f` have been sent and received, at a boundary between two periods
with the line low. -/
structure Received (c : Config) (f : Frame) (k : Nat) (s : State) : Prop where
  quiet : Quiet c true s
  edges : s.edges = []
  low : s.ch.tmrOut = false
  sent : s.tx.frame = f
  frame : s.rx.frame = f >>> (64 - k)
  bitIndex : s.rx.bitIndex = k
  running : s.rx.state = UnitState.run.code

theorem AtDataPeriod.of_deliveredFrom {k : Nat} {s t : State} (h : AtDataPeriod k s) (ht : DeliveredFrom s t) :
    AtDataPeriod k t := by
  obtain ⟨rx, es, r, rfl⟩ := ht
  exact h

theorem AtTailPeriod.of_deliveredFrom {s t : State} (h : AtTailPeriod s) (ht : DeliveredFrom s t) :
    AtTailPeriod t := by
  obtain ⟨rx, es, r, rfl⟩ := ht
  exact h

/-- The marker is received: the line falls `MARKER_ON` after the marker period's start, and the rise lies at most one
period before it, so that the width is a marker's and below half the timer's range (R250 (b), R257, R259). -/
theorem AtMarkerPeriod.reaches_received {c : Config} {f : Frame} {t₀ : Nat} {s : State} (hwf : c.WellFormed)
    (h : AtMarkerPeriod f s) (hq : Quiet c true s) (he : s.edges = []) (hseen : SeenHigh t₀ true s)
    (ht : s.now < t₀ + 2 ^ c.tmrW) : ∃ t, Reaches 3 s t ∧ AtDataPeriod 0 t ∧ Received c f 0 t := by
  have hwf' : s.cfg.WellFormed := by rw [hq.cfg]; exact hwf
  have hdue := h.due hwf'
  obtain ⟨hts, hhalf, hwidth⟩ := widths_of_wellFormed hwf
  have hfit := timesFit_of_wellFormed hwf
  have ⟨_, _, hon, _⟩ := hfit
  have ⟨⟨⟨hpos, _⟩, _⟩, hmarker, _⟩ := hwf
  obtain ⟨T, hlo, hhi, hvalid, hlast⟩ := hseen rfl
  obtain ⟨hstep₁, hq₁⟩ := hq.step_compared he hdue h.start
  have hcc : s.ch.cc.toNat = c.markerOn := by rw [h.ch, hq.cfg]; exact toNat_ofNat_of_fits hfit hon
  have he₁ : s.compared.edges = [⟨.falling, T + (s.now + c.markerOn - T)⟩] := by
    rw [compared_edges, he, hq.loopback, h.start, hcc, h.ch, Nat.add_sub_cancel' (by omega)]
    rfl
  have hw : s.now + c.markerOn - T < 2 ^ (c.tsW - 1) := by omega
  obtain ⟨x, hstep₂, hqx, hdx, hex, hrx⟩ := hq₁.step_fall he₁ ⟨hvalid, hlast⟩ hts (by omega) hw
  obtain ⟨hnat, hpw⟩ := hwidth _ hw
  have hmark : isMarker c (BitVec.ofNat 32 (s.now + c.markerOn - T)) = true := by
    rw [isMarker_eq_true_iff, hnat]
    omega
  have hexec := exec_rxPulse_of_marker hqx.cfg hpw hmark
  have hqv := hqx.after hexec
  have hdv : DeliveredFrom s.compared (afterMarker x) := hdx.trans ⟨_, _, _, rfl⟩
  obtain ⟨hstep₃, hq₃⟩ := hqv.step_overflowed_of_compared hex hdue hdv
  obtain ⟨⟨hdata, hlow⟩, hframe, -⟩ := h.atDataPeriod hwf' hdv
  refine ⟨_, .head hstep₁ (.head (hstep₂.trans hexec) (reaches_one hstep₃)), hdata, hq₃, ?_, hlow, hframe, ?_, ?_, ?_⟩
  · have hout : (afterMarker x).ch.tmrOut = false := by
      obtain ⟨_, _, _, hx⟩ := hdv
      rw [hx]
      change s.ch.inv = false
      rw [h.ch]
    rw [overflowed_edges, hlow, hout, levelChange_same, ite_self]
    exact (List.append_nil _).trans hex
  · rw [overflowed_rx, BitVec.ushiftRight_eq_zero (Nat.le_refl 64)]
    rfl
  · rw [overflowed_rx]
    rfl
  · rw [overflowed_rx]
    rfl

/-- An inverted period, low up to `CC` and high from there, is received as the pulse `w = PER - CC`, where the line is
low again after it: two events of the channel, each followed by its transition (R257, R259, R320). -/
theorem reaches_inverted_period {c : Config} {s : State} {w : Nat} (hwf : c.WellFormed) (hq : Quiet c true s)
    (he : s.edges = []) (hlow : s.ch.tmrOut = false) (hdue : compareDue s.ch = true) (hstart : s.periodStart = s.now)
    (hinv : s.ch.inv = true) (hend : ∀ u, DeliveredFrom s.compared u → u.overflowed.ch.tmrOut = false)
    (hw : s.ch.cc.toNat + w = s.ch.per.toNat) (hlt : w < 2 ^ c.tmrW) :
    ∃ u x, DeliveredFrom s.compared u ∧ DeliveredFrom u.overflowed x ∧ Quiet c true x ∧ x.edges = [] ∧
      x.rx.frame = s.rx.frame ∧ x.rx.bitIndex = s.rx.bitIndex ∧ x.rx.state = s.rx.state ∧
      ∀ v, exec (.rxPulse (BitVec.ofNat 32 w)) x = .next v → Reaches 4 s v := by
  obtain ⟨-, -, hcc, -⟩ := (compareDue_eq_true_iff _).1 hdue
  obtain ⟨hts, hhalf, -⟩ := widths_of_wellFormed hwf
  obtain ⟨hstep₁, hq₁⟩ := hq.step_compared he hdue hstart
  have he₁ : s.compared.edges = [⟨.rising, s.periodStart + s.ch.cc.toNat⟩] := by
    rw [compared_edges, he, hq.loopback, hlow, hinv]
    rfl
  obtain ⟨u, hstep₂, hq₂, hdu, heu, ⟨hvalid, hlast⟩, hrxu⟩ := hq₁.step_rise he₁
  obtain ⟨hstep₃, hq₃⟩ := hq₂.step_overflowed_of_compared heu hdue hdu
  have he₃ : u.overflowed.edges = [⟨.falling, s.periodStart + s.ch.cc.toNat + w⟩] := by
    have hout : u.ch.tmrOut = true ∧ u.periodStart + u.ch.per.toNat = s.periodStart + s.ch.cc.toNat + w := by
      obtain ⟨_, _, _, rfl⟩ := hdu
      exact ⟨hinv, by rw [Nat.add_assoc, hw]; rfl⟩
    rw [overflowed_edges, heu, hq₂.loopback, hend u hdu, hout.1, hout.2]
    rfl
  have hrose : RoseAt (s.periodStart + s.ch.cc.toNat) u.overflowed := by
    rw [RoseAt, overflowed_rx, hq₃.cfg, ← hq₂.cfg]
    exact ⟨hvalid, hlast⟩
  obtain ⟨x, hstep₄, hqx, hdx, hex, hrx⟩ := hq₃.step_fall he₃ hrose hts (by omega) (by omega)
  rw [overflowed_rx, hrxu] at hrx
  refine ⟨u, x, hdu, hdx, hqx, hex, by rw [hrx]; rfl, by rw [hrx]; rfl, by rw [hrx]; rfl, fun v hv => ?_⟩
  exact .head hstep₁ (.head hstep₂ (.head hstep₃ (reaches_one (hstep₄.trans hv))))

/-- A data bit's pulse is no marker, and a 1 exactly where the bit is (R250 (c), (d)). -/
theorem dataPulse_class {c : Config} (hwf : c.WellFormed) (f : Frame) (k : Nat) {W : PulseWidth}
    (hW : (dataOn c f k).toNat + W.toNat = c.dataPer) :
    isMarker c W = false ∧ isOne c W = decide (frameBit f k = 1) := by
  have hon := dataOn_toNat hwf f k
  obtain ⟨-, -, ⟨hone, hno⟩, hzero, -⟩ := hwf
  have hmarker : ¬ c.markerMin < W.toNat := by
    split at hon <;> omega
  have hbit : c.oneMin < W.toNat ↔ frameBit f k = 1 := by
    split at hon
    case isTrue hb => exact iff_of_true (by omega) hb
    case isFalse hb => exact iff_of_false (by omega) hb
  rw [isMarker, isOne, decide_eq_false hmarker, decide_eq_decide.2 hbit]
  exact ⟨rfl, rfl⟩

section Reception

variable {c : Config} {f : Frame} {s : State} (hwf : c.WellFormed)
include hwf

/-- Data period `k` is received as bit `k` of the frame (R257, R259). -/
theorem AtDataPeriod.reaches_received {k : Nat} (hk : k < 64) (h : AtDataPeriod k s) (hr : Received c f k s) :
    ∃ u v, DeliveredFrom s.compared u ∧ DeliveredFrom u.overflowed v ∧ Reaches 4 s v ∧ Received c f (k + 1) v := by
  obtain rfl := hr.quiet.cfg
  obtain rfl := hr.sent
  have ⟨_, _, _, _, _, _, hper, hcc, hinv, _⟩ := h
  have hend (u : State) (hu : DeliveredFrom s.compared u) : u.overflowed.ch.tmrOut = false := by
    rcases Nat.lt_or_ge k 63 with hlt | hge
    · exact (atDataPeriod_succ hwf h hu hlt).2
    · exact (atTailPeriod_of_last hwf h hu (by omega)).2
  have hfit := timesFit_of_wellFormed hwf
  have ⟨_, _, _, hdper, _⟩ := hfit
  obtain ⟨hpos, hlt⟩ := dataOn_inside hwf s.tx.frame k
  rw [toNat_ofNat_of_fits hfit hdper] at hlt
  have hw : (dataOn s.cfg s.tx.frame k).toNat + (s.cfg.dataPer - (dataOn s.cfg s.tx.frame k).toNat) = s.cfg.dataPer :=
    Nat.add_sub_cancel' hlt.le
  generalize s.cfg.dataPer - (dataOn s.cfg s.tx.frame k).toNat = w at hw
  obtain ⟨-, hhalf, hwidth⟩ := widths_of_wellFormed hwf
  obtain ⟨u, x, hdu, hdx, hqx, hex, hframe, hindex, hstate, hreach⟩ :=
    reaches_inverted_period (w := w) hwf hr.quiet hr.edges hr.low (compareDue_of_atDataPeriod hwf h)
      (periodStart_of_atDataPeriod h) hinv hend (by rw [hcc, hper, toNat_ofNat_of_fits hfit hdper, hw]) (by omega)
  obtain ⟨hnat, hpw⟩ := hwidth w (by omega)
  obtain ⟨hmarker, hone⟩ := dataPulse_class hwf s.tx.frame k (by rw [hnat, hw])
  have htail : isTail s.cfg (BitVec.ofNat 32 w) x.rx.bitIndex = false := by
    obtain ⟨hdata, -, hlast, -⟩ := frameShape_of_wellFormed hwf
    rw [← Bool.not_eq_true, isTail_eq_true_iff, hindex, hr.bitIndex]
    omega
  have hexec := exec_rxPulse_of_data hqx.cfg hpw hmarker (hstate.trans hr.running) htail hone
  refine ⟨u, _, hdu, hdx.trans ⟨_, _, _, rfl⟩, hreach _ hexec, hqx.after hexec, hex, ?_, ?_, ?_, ?_, ?_⟩
  · have hlow := hend u hdu
    obtain ⟨_, _, _, rfl⟩ := hdx
    exact hlow
  · obtain ⟨hsent, -⟩ := overflowed_of_dataPeriod hwf h hdu hk
    obtain ⟨_, _, _, rfl⟩ := hdx
    exact hsent
  · change shiftIn x.rx.frame _ = _
    rw [hframe, hr.frame, shiftIn_frameBit _ hk]
  · change satInc x.cfg x.rx.bitIndex = _
    rw [hqx.cfg, hindex, hr.bitIndex, satInc_of_wellFormed hwf (by omega) (by omega)]
    rfl
  · exact hstate.trans hr.running

/-- The data periods, one after another (R257, R259). -/
theorem reaches_dataPeriod {k : Nat} (hk : k ≤ 63) (h : AtDataPeriod 0 s) (hr : Received c f 0 s) :
    ∃ t, Reaches (4 * k) s t ∧ AtDataPeriod k t ∧ Received c f k t := by
  induction k with
  | zero => exact ⟨s, .refl s, h, hr⟩
  | succ k ih =>
    obtain ⟨t, hreach, hdata, hrec⟩ := ih (by omega)
    obtain ⟨u, v, hdu, hdv, hreach', hrec'⟩ := hdata.reaches_received hwf (by omega) hrec
    have hwf' : t.cfg.WellFormed := by rw [hrec.quiet.cfg]; exact hwf
    exact ⟨v, hreach.trans hreach', (atDataPeriod_succ hwf' hdata hdu (by omega)).1.of_deliveredFrom hdv, hrec'⟩

/-- The tail period is received as the tail: the frame is complete (R250 (e), R257, R259). -/
theorem AtTailPeriod.reaches_complete (h : AtTailPeriod s) (hr : Received c f 64 s) :
    ∃ t, Reaches 4 s t ∧ t.tx.state = UnitState.stop.code ∧ t.tx.bitIndex = 65 ∧ t.ch.tmrEn = false ∧
      t.ch.tmrOut = false ∧ t.pending = [] ∧ t.edges = [] ∧ t.rx.frame = f ∧ t.rx.done = true ∧
      t.rx.state = UnitState.idle.code ∧ t.rx.bitIndex = 64 := by
  obtain rfl := hr.quiet.cfg
  have ⟨_, _, _, _, _, _, hper, hcc, hinv, _⟩ := h
  have hfit := timesFit_of_wellFormed hwf
  have ⟨_, _, _, _, _, _, htper, hton⟩ := hfit
  have ⟨⟨_, _, _, _, hlt, _⟩, _, _, _, htail, hnomarker, ⟨hdata, _, hlast, _⟩, _⟩ := hwf
  obtain ⟨-, hhalf, hwidth⟩ := widths_of_wellFormed hwf
  have hend (u : State) (hu : DeliveredFrom s.compared u) : u.overflowed.ch.tmrOut = false := by
    obtain ⟨-, -, hout, -⟩ := overflowed_of_tailPeriod hwf h hu
    exact hout
  obtain ⟨u, x, hdu, hdx, hqx, hex, hframe, hindex, hstate, hreach⟩ :=
    reaches_inverted_period (w := s.cfg.tailPer - s.cfg.tailOn) hwf hr.quiet hr.edges hr.low
      (compareDue_of_atTailPeriod hwf h) (periodStart_of_atTailPeriod h) hinv hend
      (by rw [hcc, hper, toNat_ofNat_of_fits hfit htper, toNat_ofNat_of_fits hfit hton]; omega) (by omega)
  obtain ⟨hnat, hpw⟩ := hwidth (s.cfg.tailPer - s.cfg.tailOn) (by omega)
  have hmarker : isMarker s.cfg (BitVec.ofNat 32 (s.cfg.tailPer - s.cfg.tailOn)) = false := by
    rw [← Bool.not_eq_true, isMarker_eq_true_iff, hnat]
    omega
  have htail' : isTail s.cfg (BitVec.ofNat 32 (s.cfg.tailPer - s.cfg.tailOn)) x.rx.bitIndex = true := by
    rw [isTail_eq_true_iff, hnat, hindex, hr.bitIndex]
    exact ⟨htail, by omega⟩
  have hexec := exec_rxPulse_of_tail hqx.cfg hpw hmarker (hstate.trans hr.running) htail'
  obtain ⟨htx, hen, hout, -⟩ := overflowed_of_tailPeriod hwf h hdu
  obtain ⟨htx', hch'⟩ : x.tx = u.overflowed.tx ∧ x.ch = u.overflowed.ch := by
    obtain ⟨_, _, _, rfl⟩ := hdx
    exact ⟨rfl, rfl⟩
  refine ⟨afterTail x, hreach _ hexec, ?_, ?_, ?_, ?_, hqx.pending, hex, ?_, rfl, rfl, hindex.trans hr.bitIndex⟩
  · change x.tx.state = _
    rw [htx', htx]
  · change x.tx.bitIndex = _
    rw [htx', htx]
  · change x.ch.tmrEn = _
    rw [hch', hen]
  · change x.ch.tmrOut = _
    rw [hch', hout]
  · change x.rx.frame = _
    rw [hframe, hr.frame]
    exact BitVec.ushiftRight_zero f

end Reception

/-- Settles O46: the send and the propagation period, in which RX sees the line rise whatever the active registers are;
the marker; the data periods by induction; the tail. At most 3 + 2 + 2 + 3 + 4 * 63 + 4 + 4 steps. -/
theorem roundTripReproducesTheFrame : Obligations.RoundTripReproducesTheFrame := by
  intro f s hwf hregs hlegal hloop he hp
  obtain ⟨hperFits, -⟩ := hregs
  obtain ⟨k₁, t₁, hk₁, hr₁, hq₁, he₁, hprop, hnow₁, hper₁, hseen₁⟩ := reaches_propagation hwf rfl hlegal hloop he hp
  obtain ⟨k₂, t₂, hk₂, hr₂, hq₂, he₂, hends, hstart₂, hper₂, hseen₂⟩ :=
    hprop.reaches_end hwf hq₁ he₁ hnow₁.ge hseen₁
  obtain ⟨k₃, t₃, hk₃, hr₃, hq₃, he₃, hmark, hnow₃, hseen₃⟩ :=
    hends.reaches_marker hwf hq₂ he₂ (hstart₂ ▸ hnow₁.ge) hseen₂
  have hperiod : t₃.now < s.now + 2 ^ s.cfg.tmrW := by
    rw [hnow₃, hstart₂, hnow₁, hper₂, hper₁]
    omega
  obtain ⟨t₄, hr₄, hdata, hrec⟩ := hmark.reaches_received hwf hq₃ he₃ hseen₃ hperiod
  obtain ⟨t₅, hr₅, hdata₅, hrec₅⟩ := reaches_dataPeriod (k := 63) hwf le_rfl hdata hrec
  obtain ⟨u, t₆, hdu, hdv, hr₆, hrec₆⟩ := hdata₅.reaches_received hwf (by decide) hrec₅
  have hwf₅ : t₅.cfg.WellFormed := by rw [hrec₅.quiet.cfg]; exact hwf
  have htail : AtTailPeriod t₆ := (atTailPeriod_of_last hwf₅ hdata₅ hdu rfl).1.of_deliveredFrom hdv
  obtain ⟨t₇, hr₇, hdone⟩ := htail.reaches_complete hwf hrec₆
  have hrun := hr₁.trans (hr₂.trans (hr₃.trans (hr₄.trans (hr₅.trans (hr₆.trans hr₇)))))
  exact ⟨_, t₇, by omega, hrun, hdone⟩

end Sys2Proof.Machine

namespace Sys2Proof.Machine

open Sys2Proof

/-! ## The channel's events and the loopback's turns -/

/-! ### TX.OVF: the latch, its instant and the line -/

/-- The overflow event never starts a channel (R254). -/
theorem running_of_overflow {c : Config} {tx : TxContext} {ch : Channel} (h : (overflow c tx ch).2.tmrEn = true) :
    ch.tmrEn = true := by
  rcases overflow_stops_or_goes_on c tx ch with ⟨-, e⟩ | ⟨-, v, b, p, e, -⟩
  · rw [e] at h; cases h
  · rw [e] at h; exact h

@[simp] theorem State.overflowNow_now (s : State) : s.overflowNow.now = s.now := by
  unfold State.overflowNow
  split <;> rfl

/-- TX.OVF's writes add the change of the line they make, at the current instant (R315, R317, R320). -/
theorem State.overflowNow_edges (s : State) :
    s.overflowNow.edges = s.edges ++
      (if s.loopback then levelChange s.ch.tmrOut s.overflowNow.ch.tmrOut s.now else []) := by
  unfold State.overflowNow
  split <;> rfl

/-- A channel that runs after TX.OVF's writes ran before them, and has latched and begun a period (R315). -/
theorem overflowNow_latches {s : State} (h : s.overflowNow.ch.tmrEn = true) :
    s.ch.tmrEn = true ∧ s.overflowNow.periodStart = s.now ∧ ∃ ch, s.overflowNow.ch = latch ch := by
  unfold State.overflowNow at h ⊢
  split
  case isTrue hen => exact ⟨running_of_overflow hen, rfl, _, rfl⟩
  case isFalse hoff => rw [if_neg hoff] at h; exact absurd h hoff

/-- On a stopped channel TX.OVF begins no period (R254). -/
theorem overflowNow_periodStart_of_stopped {s : State} (h : s.ch.tmrEn = false) :
    s.overflowNow.periodStart = s.periodStart := by
  unfold State.overflowNow
  split
  case isTrue hen => rw [running_of_overflow hen] at h; cases h
  case isFalse => rfl

/-- Where TX.OVF is the channel's next event, time comes to `PER` (R315, R318). -/
theorem atOverflow_of_next {s : State} (hen : s.ch.tmrEn = true) (hdue : compareDue s.ch = false) :
    s.atOverflow = s.advanceTo (s.periodStart + s.ch.per.toNat) := by
  simp [State.atOverflow, hen, hdue]

/-- Where TX.OVF is injected it moves no time (K18). -/
theorem atOverflow_of_injected {s : State} (h : s.ch.tmrEn = false ∨ compareDue s.ch = true) : s.atOverflow = s := by
  rcases h with h | h <;> simp [State.atOverflow, h]

/-- Settles O34: TX.OVF's writes at the instant `atOverflow` has come to; a running channel has latched. -/
theorem boundaryLatchesAfterOverflow : Obligations.BoundaryLatchesAfterOverflow := by
  intro s t h
  rw [exec_txOvf] at h
  cases h
  simp only [State.answer_now, State.answer_ch, State.answer_periodStart, State.overflowNow_now]
  refine ⟨fun hen hdue => ?_, fun hdue => ?_, fun hrun => ?_, fun hoff => ?_⟩
  · rw [atOverflow_of_next hen hdue, advanceTo_now]
  · rw [atOverflow_of_injected (.inr hdue)]
  · obtain ⟨-, hstart, ch, hch⟩ := overflowNow_latches hrun
    simp [hch, hstart, waveLevel_zero]
  · rw [atOverflow_of_injected (.inl hoff)]
    refine ⟨?_, rfl, overflowNow_periodStart_of_stopped hoff⟩
    by_contra hrun
    obtain ⟨hen, -⟩ := overflowNow_latches (Bool.not_eq_false _ ▸ hrun)
    rw [hoff] at hen
    cases hen

/-! ### TX.CMP: delivered once -/

theorem compareDue_eq_false_iff (ch : Channel) :
    compareDue ch = false ↔
      ch.tmrEn = false ∨ ch.cmpEn = false ∨ ch.per.toNat ≤ ch.cc.toNat ∨ ch.cmpDone = true := by
  rw [← Bool.not_eq_true, compareDue_eq_true_iff]
  simp only [not_and_or, Bool.not_eq_true, Bool.not_eq_false, not_lt]

/-- TX.CMP's load writes the buffered compare point only (R255). -/
theorem loadCompare_eq (s : State) :
    s.loadCompare = { s with ch := { s.ch with ccB := (compareLoad s.cfg s.tx s.ch).ccB } } := by
  rw [State.loadCompare, compareLoad_eq]
  simp only [State.driveChannel, levelChange_same, ite_self, List.append_nil]

/-- A due compare event comes at `CC` and is recorded (R318). -/
theorem atCompare_of_due {s : State} (hdue : compareDue s.ch = true) :
    s.atCompare = (s.advanceTo (s.periodStart + s.ch.cc.toNat)).markCompared :=
  if_pos hdue

/-- An injected TX.CMP moves no time and records nothing (K18). -/
theorem atCompare_of_not_due {s : State} (hdue : compareDue s.ch = false) : s.atCompare = s := by
  simp [State.atCompare, hdue]

/-- Settles O36: `atCompare` comes to `CC` and records the delivery exactly where the event is due; the load behind it
leaves all that the statement speaks of. -/
theorem compareIsDeliveredOnce : Obligations.CompareIsDeliveredOnce := by
  intro s t h
  rw [exec_txCmp, loadCompare_eq] at h
  cases h
  refine ⟨fun hen hcmp hcc hdone => ?_, fun hno => ?_⟩
  · rw [atCompare_of_due ((compareDue_eq_true_iff _).2 ⟨hen, hcmp, hcc, hdone⟩)]
    refine ⟨rfl, advanceTo_now _ _, (channelNext_eq_some_iff _ _).2 ⟨?_, .inr ⟨?_, rfl⟩⟩⟩
    · change (s.advanceTo _).ch.tmrEn = true
      rw [advanceTo_ch]
      exact hen
    · exact (compareDue_eq_false_iff _).2 (.inr (.inr (.inr rfl)))
  · rw [atCompare_of_not_due ((compareDue_eq_false_iff _).2 hno)]
    exact ⟨rfl, rfl, rfl, rfl⟩

/-- The channel's next event runs, and the clock comes to its instant (R315, R318). -/
theorem exec_channelNext {s : State} {i : Instr} (h : channelNext s.ch = some i) :
    ∃ t, exec i s = .next t ∧ t.now = max s.now (nextEventTime s) := by
  obtain ⟨hen, ⟨hdue, rfl⟩ | ⟨hdue, rfl⟩⟩ := (channelNext_eq_some_iff _ _).1 h
  · refine ⟨_, exec_txCmp s, ?_⟩
    rw [loadCompare_eq, atCompare_of_due hdue, nextEventTime_of_due hdue]
    exact advanceTo_now _ _
  · refine ⟨_, exec_txOvf s, ?_⟩
    rw [State.answer_now, State.overflowNow_now, atOverflow_of_next hen hdue, nextEventTime_of_not_due hdue,
      advanceTo_now]

/-! ### Time that goes by -/

/-- Time waits for the transitions on their way (R320). -/
theorem turnWaits_elapse_of_edges {s : State} {us : Nat} {e : LineEdge} {more : List LineEdge}
    (he : s.edges = e :: more) (hus : 0 < us) : turnWaits (.elapse us) s = true := by
  simp [turnWaits, he, hus]

theorem turnWaits_elapse_zero (s : State) : turnWaits (.elapse 0) s = false := by
  simp [turnWaits]

/-- Up to the channel's next event time goes by with the line alone following it (R314). -/
theorem elapse_of_le {s : State} {us : Nat} (h : s.now + us ≤ nextEventTime s) :
    elapse us s = .next (s.advanceTo (s.now + us)) := by
  simp [elapse, Nat.not_lt.2 h]

/-- A running channel always has a next event (R318). -/
theorem exists_channelNext {ch : Channel} (hen : ch.tmrEn = true) : ∃ i, channelNext ch = some i := by
  cases hdue : compareDue ch with
  | true => exact ⟨_, (channelNext_eq_some_iff _ _).2 ⟨hen, .inl ⟨hdue, rfl⟩⟩⟩
  | false => exact ⟨_, (channelNext_eq_some_iff _ _).2 ⟨hen, .inr ⟨hdue, rfl⟩⟩⟩

theorem channelStep_of_some {s : State} {i : Instr} (h : channelNext s.ch = some i) : channelStep s = exec i s := by
  simp only [channelStep, h]

theorem channelStep_of_stopped {s : State} (h : s.ch.tmrEn = false) : channelStep s = .next s := by
  simp [channelStep, channelNext, h]

/-- The channel's event comes before time that would pass it, and the rest of the time is still to go by (R363). -/
theorem elapse_of_lt {s : State} {us : Nat} {i : Instr} (hi : channelNext s.ch = some i)
    (hle : s.now ≤ nextEventTime s) (hlt : nextEventTime s < s.now + us) :
    elapse us s = exec i (s.asksAgain (.elapse (s.now + us - nextEventTime s))) := by
  obtain ⟨hen, -⟩ := (channelNext_eq_some_iff _ _).1 hi
  rw [elapse, if_pos (by simp [hen, hlt]), Nat.max_eq_right hle]
  exact channelStep_of_some hi

/-- A step that lets time go by no further than the channel's next event moves the clock and the line (R314, R320). -/
theorem step_elapse_of_le {s : State} {us : Nat} {rest : List Turn} (hr : reservedState s = none)
    (hp : s.pending = .elapse us :: rest) (he : s.edges = [] ∨ us = 0) (h : s.now + us ≤ nextEventTime s) :
    step s = .next (({ s with pending := rest }).advanceTo (s.now + us)) := by
  have hw : turnWaits (.elapse us) { s with pending := rest } = false := by
    rcases he with he | rfl
    · exact turnWaits_of_no_edges _ he
    · exact turnWaits_elapse_zero _
  rw [step_of_ready hr hp hw]
  exact elapse_of_le (s := { s with pending := rest }) h

/-- Settles O41: the clock moves, and of the channel the line follows the waveform. -/
theorem lineFollowsTheWaveform : Obligations.LineFollowsTheWaveform := by
  rintro s us _ rest hr hp he hen - rfl hper hnext
  have hmax : max s.now (s.now + us) = s.now + us := Nat.max_eq_right (Nat.le_add_right _ _)
  have hch := advanceTo_ch_running (s.now + us) { s with pending := rest } hen
  obtain ⟨o, es, hframe, hes⟩ := advanceTo_frame (s.now + us) { s with pending := rest }
  refine ⟨_, step_elapse_of_le hr hp he hnext, ?_, ?_, ?_, ?_⟩
  · exact (advanceTo_now _ _).trans hmax
  · rw [hch]
    simp only [hmax, waveLevel_of_lt _ _ _ _ hper]
  · rw [hframe]
  · rw [hframe]
    exact hes

/-- Settles O42: with its event before the end, a running channel takes it, at its instant; with a transition on its way,
that one comes first. -/
theorem timeDoesNotSkipAnEvent : Obligations.TimeDoesNotSkipAnEvent := by
  intro s us rest hr hp
  refine ⟨fun he hen hle hlt => ?_, fun e more he hus => ?_⟩
  · obtain ⟨i, hi⟩ := exists_channelNext hen
    obtain ⟨t, ht, hnow⟩ :=
      exec_channelNext (s := { s with pending := .elapse (s.now + us - nextEventTime s) :: rest }) hi
    have hstep : step s = exec i { s with pending := .elapse (s.now + us - nextEventTime s) :: rest } := by
      rw [step_of_ready hr hp (turnWaits_of_no_edges _ he)]
      exact elapse_of_lt (s := { s with pending := rest }) hi hle hlt
    exact ⟨i, t, hi, hstep, hstep.trans ht, hnow.trans (Nat.max_eq_right hle)⟩
  · exact step_of_waiting hr hp he (turnWaits_elapse_of_edges he hus)

end Sys2Proof.Machine

namespace Sys2Proof.Machine

open Sys2Proof

/-! ### Transitions of the line, operation by operation -/

/-- An injected TX.CMP writes the buffered compare point at most (K18). -/
theorem exec_txCmp_of_not_due {s : State} (hdue : compareDue s.ch = false) :
    exec .txCmp s = .next (s.loadCompare.answer (.ok .nothing)) := by
  rw [exec_txCmp, atCompare_of_not_due hdue]

/-- Up to the boundary a looped-back line changes at `CC`, to the period's last level (R314, R320). -/
theorem advanceTo_per {s : State} (hen : s.ch.tmrEn = true) (hloop : s.loopback = true)
    (hnow : s.now ≤ s.periodStart + s.ch.per.toNat) :
    (s.advanceTo (s.periodStart + s.ch.per.toNat)).ch.tmrOut = lastLevel s.ch ∧
    (s.advanceTo (s.periodStart + s.ch.per.toNat)).edges =
      s.edges ++ levelChange s.ch.tmrOut (lastLevel s.ch) (s.periodStart + s.ch.cc.toNat) := by
  have hout : (s.advanceTo (s.periodStart + s.ch.per.toNat)).ch.tmrOut = lastLevel s.ch := by
    rw [advanceTo_ch_running _ s hen, ← waveLevel_per, Nat.max_eq_right hnow, Nat.add_sub_cancel_left]
  rw [advanceTo_edges, hout, if_pos hloop]
  exact ⟨rfl, rfl⟩

/-- With the loopback, the channel's overflow event adds the change at `CC` that is still to come and the change at `PER`
(R314, R315, R320). -/
theorem txOvf_edges_of_next {s t : State} (hen : s.ch.tmrEn = true) (hdue : compareDue s.ch = false)
    (hloop : s.loopback = true) (hnow : s.now ≤ s.periodStart + s.ch.per.toNat) (h : exec .txOvf s = .next t) :
    t.edges = s.edges ++ levelChange s.ch.tmrOut (lastLevel s.ch) (s.periodStart + s.ch.cc.toNat) ++
      levelChange (lastLevel s.ch) t.ch.tmrOut (s.periodStart + s.ch.per.toNat) := by
  obtain ⟨hout, hedges⟩ := advanceTo_per hen hloop hnow
  rw [exec_txOvf, atOverflow_of_next hen hdue] at h
  cases h
  rw [State.answer_edges, State.overflowNow_edges, advanceTo_loopback, if_pos hloop, hout, hedges, advanceTo_now,
    Nat.max_eq_right hnow]
  rfl

/-- With the loopback, an injected TX.OVF adds the change of the line it makes, now (K18, R320). -/
theorem txOvf_edges_of_injected {s t : State} (hinj : s.ch.tmrEn = false ∨ compareDue s.ch = true)
    (hloop : s.loopback = true) (h : exec .txOvf s = .next t) :
    t.edges = s.edges ++ levelChange s.ch.tmrOut t.ch.tmrOut s.now := by
  rw [exec_txOvf, atOverflow_of_injected hinj] at h
  cases h
  rw [State.answer_edges, State.overflowNow_edges, if_pos hloop]
  rfl

/-- With the loopback, a reset turn adds the fall of a high line (R320, R350). -/
theorem step_reset_edges {s : State} {rest : List Turn} (hr : reservedState s = none) (hloop : s.loopback = true)
    (hp : s.pending = .reset :: rest) :
    ∃ t, step s = .next t ∧ t.edges = s.edges ++ levelChange s.ch.tmrOut false s.now := by
  have hw : turnWaits .reset { s with pending := rest } = false := Bool.and_false _
  refine ⟨_, step_of_ready hr hp hw, ?_⟩
  simp only [resetBlock, State.driveChannel_edges, if_pos hloop]
  rfl

/-- With the loopback, time that goes by adds the change at `CC` where it reaches it (R314, R320). -/
theorem step_elapse_edges {s : State} {us : Nat} {rest : List Turn} (hr : reservedState s = none)
    (hloop : s.loopback = true) (hp : s.pending = .elapse us :: rest) (he : s.edges = [])
    (h : s.now + us ≤ nextEventTime s) :
    ∃ t, step s = .next t ∧ t.edges = levelChange s.ch.tmrOut t.ch.tmrOut (s.periodStart + s.ch.cc.toNat) := by
  refine ⟨_, step_elapse_of_le hr hp (.inl he) h, ?_⟩
  rw [advanceTo_edges, if_pos hloop, he]
  rfl

/-- Settles O43: each operation's writes of the line, at their instants. -/
theorem loopbackDeliversTheTransition : Obligations.LoopbackDeliversTheTransition := by
  refine ⟨fun T => ⟨rfl, rfl, fun b => levelChange_same b T⟩, fun s hloop => ?_⟩
  refine ⟨fun t h => ?_, fun t h => ?_, fun f t h => ?_, fun t h hdue _ hnow => ?_, fun t h hdue => ?_,
    fun t h hen hdue _ hnow => txOvf_edges_of_next hen hdue hloop hnow h,
    fun t h hinj => txOvf_edges_of_injected hinj hloop h,
    fun hr rest => ⟨fun us hp he _ hle => step_elapse_edges hr hloop hp he hle, step_reset_edges hr hloop⟩⟩
  · cases h
    simp [hloop]
  · cases h
    simp [hloop]
  · rw [exec_txSend] at h
    cases h
    rw [sent_edges, if_pos hloop, if_pos hloop]
    rfl
  · rw [exec_txCmp_of_due hdue hnow] at h
    cases h
    rw [compared_edges, if_pos hloop]
  · rw [exec_txCmp_of_not_due hdue, loadCompare_eq] at h
    cases h
    rfl

/-! ### Transitions of the line are kept in order -/

/-- From `s` to `t` transitions are only added, behind those on their way, and none without the loopback (R308 (d),
R320). -/
def AddsEdges (s t : State) : Prop :=
  ∃ new, t.edges = s.edges ++ new ∧ (s.loopback = false → new = [])

theorem AddsEdges.of_eq {s t : State} (h : t.edges = s.edges) : AddsEdges s t :=
  ⟨[], by rw [h, List.append_nil], fun _ => rfl⟩

theorem AddsEdges.trans {s t u : State} (h : AddsEdges s t) (hl : t.loopback = s.loopback) (h' : AddsEdges t u) :
    AddsEdges s u := by
  obtain ⟨new, he, hn⟩ := h
  obtain ⟨new', he', hn'⟩ := h'
  refine ⟨new ++ new', by rw [he', he, List.append_assoc], fun hoff => ?_⟩
  rw [hn hoff, hn' (hl.trans hoff)]
  rfl

/-- What is added only through the loopback is added. -/
theorem AddsEdges.of_wired {s t : State} {es : List LineEdge}
    (h : t.edges = s.edges ++ (if s.loopback then es else [])) : AddsEdges s t :=
  ⟨_, h, fun hoff => by rw [hoff]; rfl⟩

theorem addsEdges_driveChannel (time : Nat) (v : Channel) (s : State) : AddsEdges s (s.driveChannel time v) :=
  .of_wired rfl

theorem addsEdges_advanceTo (time : Nat) (s : State) : AddsEdges s (s.advanceTo time) :=
  .of_wired (advanceTo_edges time s)

theorem addsEdges_atOverflow (s : State) : AddsEdges s s.atOverflow := by
  unfold State.atOverflow
  split
  · exact addsEdges_advanceTo _ s
  · exact .of_eq rfl

theorem addsEdges_atCompare (s : State) : AddsEdges s s.atCompare := by
  unfold State.atCompare
  split
  · exact addsEdges_advanceTo _ s
  · exact .of_eq rfl

/-- An operation only adds transitions behind those on their way (R308 (d)). -/
theorem exec_addsEdges {i : Instr} {s t : State} (h : exec i s = .next t) : AddsEdges s t := by
  cases hi : isTx i with
  | false => obtain ⟨rx, r, rfl⟩ := exec_next_of_not_tx hi h; exact .of_eq rfl
  | true =>
    cases i with
    | txInit => cases h; exact .of_wired rfl
    | txSend f =>
      cases h
      exact (addsEdges_driveChannel s.now (timerDisable s.ch) s).trans rfl (.of_wired rfl)
    | txStop => cases h; exact .of_wired rfl
    | txOvf =>
      rw [exec_txOvf] at h
      cases h
      exact (addsEdges_atOverflow s).trans s.atOverflow_loopback (.of_wired s.atOverflow.overflowNow_edges)
    | txCmp =>
      rw [exec_txCmp] at h
      cases h
      exact (addsEdges_atCompare s).trans s.atCompare_loopback (addsEdges_driveChannel _ _ s.atCompare)
    | _ => cases hi

theorem channelStep_addsEdges {s t : State} (h : channelStep s = .next t) : AddsEdges s t := by
  cases hn : channelNext s.ch with
  | none => simp only [channelStep, hn, Host.Outcome.next.injEq] at h; exact .of_eq (h ▸ rfl)
  | some i => rw [channelStep_of_some hn] at h; exact exec_addsEdges h

theorem runCommand_addsEdges {a : Agent} {bytes : List Byte} {s t : State} (h : runCommand a bytes s = .next t) :
    AddsEdges s t := by
  cases hd : decode bytes with
  | error e =>
    simp only [runCommand, hd] at h
    cases e with
    | empty => cases h; exact .of_eq rfl
    | illegalOp op => cases h; exact .of_eq rfl
    | truncated op => cases h
  | ok d =>
    obtain ⟨i, more⟩ := d
    obtain ⟨p, hp⟩ := pushBytes_eq a more s
    simp only [runCommand, hd, issue, hp] at h
    split at h
    case isTrue => exact exec_addsEdges (s := { s with pending := p }) h
    case isFalse => cases h

theorem elapse_addsEdges {us : Nat} {s t : State} (h : elapse us s = .next t) : AddsEdges s t := by
  unfold elapse at h
  split at h
  · exact channelStep_addsEdges (s := s.asksAgain _) h
  · cases h; exact addsEdges_advanceTo _ s

/-- A turn only adds transitions, but for EDGE's own, which delivers the oldest one there is (R308 (d), R320). -/
theorem takeTurn_addsEdges {x : Turn} {s t : State} (hx : x = .lineEdge → s.edges = []) (h : takeTurn x s = .next t) :
    AddsEdges s t := by
  cases x with
  | command a bytes => exact runCommand_addsEdges h
  | transition d time => exact exec_addsEdges h
  | lineEdge =>
    simp only [takeTurn, deliverEdge, hx rfl, Host.Outcome.next.injEq] at h
    exact .of_eq (h ▸ rfl)
  | timer => exact channelStep_addsEdges h
  | elapse us => exact elapse_addsEdges h
  | reset => cases h; exact .of_wired rfl

/-- EDGE's turn waits for nothing. -/
theorem turnWaits_lineEdge (s : State) : turnWaits .lineEdge s = false := Bool.and_false _

/-- EDGE's turn delivers the oldest transition on its way (R308 (d), R320). -/
theorem step_lineEdge {s : State} {e : LineEdge} {more : List LineEdge} {rest : List Turn}
    (hr : reservedState s = none) (hp : s.pending = .lineEdge :: rest) (he : s.edges = e :: more) :
    step s = exec (edgeInstr e.dir e.time) { s with edges := more, pending := rest } := by
  rw [step_of_ready hr hp (turnWaits_lineEdge _)]
  exact deliverEdge_eq (s := { s with pending := rest }) he

/-- A step only adds transitions, or it delivers the oldest one on its way (R308, R320). -/
theorem step_edges {s t : State} (h : step s = .next t) :
    AddsEdges s t ∨ ∃ e more turns, s.edges = e :: more ∧
      step s = exec (edgeInstr e.dir e.time) { s with edges := more, pending := turns } := by
  obtain ⟨hr, -⟩ := step_effect h
  cases hp : s.pending with
  | nil =>
    cases he : s.edges with
    | nil => rw [step_of_none_pending hr hp he] at h; exact .inl (channelStep_addsEdges h)
    | cons e more => exact .inr ⟨e, more, s.pending, rfl, step_of_edge hr hp he⟩
  | cons x rest =>
    cases he : s.edges with
    | nil =>
      rw [step_of_ready hr hp (turnWaits_of_no_edges x he)] at h
      exact .inl (takeTurn_addsEdges (s := { s with pending := rest }) (fun _ => he) h)
    | cons e more =>
      cases hw : turnWaits x { s with pending := rest } with
      | true => exact .inr ⟨e, more, s.pending, rfl, step_of_waiting hr hp he hw⟩
      | false =>
        by_cases hx : x = .lineEdge
        · exact .inr ⟨e, more, rest, rfl, step_lineEdge hr (hx ▸ hp) he⟩
        · rw [step_of_ready hr hp hw] at h
          exact .inl (takeTurn_addsEdges (s := { s with pending := rest }) (fun hx' => absurd hx' hx) h)

theorem isTx_edgeInstr (d : EdgeDir) (time : Nat) : isTx (edgeInstr d time) = false := by
  cases d <;> rfl

/-- Settles O45: `exec_addsEdges` and `step_edges`; what a delivery runs is an RX operation, which leaves the others. -/
theorem lineEdgesAreNotLost : Obligations.LineEdgesAreNotLost := by
  refine ⟨fun i s t h => exec_addsEdges h, fun s t h => (step_edges h).imp_right ?_⟩
  rintro ⟨e, more, turns, he, hstep⟩
  obtain ⟨rx, r, ht⟩ := exec_next_of_not_tx (isTx_edgeInstr e.dir e.time) (hstep.symm.trans h)
  exact ⟨e, more, he, by rw [ht]; rfl, turns, hstep⟩

end Sys2Proof.Machine

namespace Sys2Proof.Machine

open Sys2Proof

/-! ### Outcomes -/

/-- The operations R301 gives a `RANGE_ERROR`: the accessors and the converters. -/
def MayRaiseRangeError (i : Instr) : Prop :=
  (∃ f j, i = .lyBit f j) ∨ (∃ f j, i = .lyByte f j) ∨ (∃ f, i = .lyCurrent f) ∨ ∃ f v, i = .lyPower f v

/-- An LY operation answers `OK`, or one of the four answers `RANGE_ERROR`; either way it writes nothing else (R301). -/
theorem exec_ly_answers {i : Instr} (hi : isLy i = true) (s : State) :
    (∃ v, exec i s = .next (s.answer (.ok v))) ∨
    (MayRaiseRangeError i ∧ ∃ kind value, exec i s = .next (s.answer (.rangeError kind value))) := by
  cases i with
  | lyBit f j =>
    by_cases hj : 63 < j.toNat
    · exact .inr ⟨.inl ⟨f, j, rfl⟩, .index, j, if_pos hj⟩
    · exact .inl ⟨_, if_neg hj⟩
  | lyByte f j =>
    by_cases hj : 7 < j.toNat
    · exact .inr ⟨.inr (.inl ⟨f, j, rfl⟩), .index, j, if_pos hj⟩
    · exact .inl ⟨_, if_neg hj⟩
  | lyDecode f => exact .inl ⟨_, rfl⟩
  | lyCsum f => exact .inl ⟨_, rfl⟩
  | lyCurrent f =>
    cases he : converterExponent s.cfg (frameFields f).exponent with
    | none => exact .inr ⟨.inr (.inr (.inl ⟨f, rfl⟩)), _, _, exec_lyCurrent_of_none he⟩
    | some e => exact .inl ⟨_, by simp only [exec, execLyCurrent, he]; rfl⟩
  | lyPower f v =>
    cases he : converterExponent s.cfg (frameFields f).exponent with
    | none => exact .inr ⟨.inr (.inr (.inr ⟨f, v, rfl⟩)), _, _, exec_lyPower_of_none he⟩
    | some e => exact .inl ⟨_, by simp only [exec, execLyPower, he]; rfl⟩
  | _ => cases hi

/-- Every operation that answers a next state answers `OK`, or it is one of the four and only answers a `RANGE_ERROR`
(R301). -/
theorem exec_answers {i : Instr} {s t : State} (h : exec i s = .next t) :
    (∃ v, t.response = .ok v) ∨
    (MayRaiseRangeError i ∧ ∃ kind value, t = s.answer (.rangeError kind value)) := by
  cases hl : isLy i with
  | true =>
    rcases exec_ly_answers hl s with ⟨v, e⟩ | ⟨hi, kind, value, e⟩
    · rw [e] at h; cases h; exact .inl ⟨v, rfl⟩
    · rw [e] at h; cases h; exact .inr ⟨hi, kind, value, rfl⟩
  | false =>
    refine .inl ?_
    cases i with
    | rxRise x => cases h; exact ⟨_, rfl⟩
    | rxFall x => obtain ⟨rx, -, rfl⟩ := finishRx_eq_next_iff.1 h; exact ⟨_, rfl⟩
    | rxPulse w => obtain ⟨rx, -, rfl⟩ := finishRx_eq_next_iff.1 h; exact ⟨_, rfl⟩
    | rxStatus =>
      simp only [exec, execRxStatus] at h
      split at h
      · cases h
      · cases h; exact ⟨_, rfl⟩
    | rxFrame => cases h; exact ⟨_, rfl⟩
    | rxAck => cases h; exact ⟨_, rfl⟩
    | txInit => cases h; exact ⟨_, rfl⟩
    | txSend f => cases h; exact ⟨_, rfl⟩
    | txStop => cases h; exact ⟨_, rfl⟩
    | txOvf => rw [exec_txOvf] at h; cases h; exact ⟨_, rfl⟩
    | txCmp => rw [exec_txCmp] at h; cases h; exact ⟨_, rfl⟩
    | _ => cases hl

/-- With a legal `rx_state` every operation answers a next state (R45, R305). -/
theorem exec_next_of_legal (i : Instr) {s : State} (h : s.rx.state ≠ 3#2) : ∃ t, exec i s = .next t := by
  cases hl : isLy i with
  | true =>
    obtain ⟨r, hr⟩ := exec_ly s.cfg hl
    exact ⟨_, hr s rfl⟩
  | false =>
    cases i with
    | rxRise x => exact ⟨_, rfl⟩
    | rxFall x => exact exec_rxFall_of_legal x h
    | rxPulse w =>
      obtain ⟨t, ht, -⟩ := exec_rxPulse_of_legal w h
      exact ⟨t, ht⟩
    | rxStatus =>
      cases hu : UnitState.ofCode s.rx.state with
      | none => exact absurd ((UnitState.ofCode_eq_none_iff _).1 hu) h
      | some u => exact ⟨_, by simp only [exec, execRxStatus, hu]; rfl⟩
    | rxFrame => exact ⟨_, rfl⟩
    | rxAck => exact ⟨_, rfl⟩
    | txInit => exact ⟨_, rfl⟩
    | txSend f => exact ⟨_, rfl⟩
    | txStop => exact ⟨_, rfl⟩
    | txOvf => exact ⟨_, exec_txOvf s⟩
    | txCmp => exact ⟨_, exec_txCmp s⟩
    | _ => cases hl

/-- Settles O47: a next state exists, and `exec_answers` says how it answers. -/
theorem everyOperationEndsWithAnOutcome : Obligations.EveryOperationEndsWithAnOutcome := by
  intro i s hs
  obtain ⟨t, ht⟩ := exec_next_of_legal i hs
  refine ⟨t, ht, ?_⟩
  rcases exec_answers ht with ⟨v, hv⟩ | ⟨hi, kind, value, rfl⟩
  · exact .inl (by rw [hv]; rfl)
  · exact .inr ⟨rfl, hi⟩

/-- Settles O48: the answer that is not `OK` is the `RANGE_ERROR` of `exec_answers`. -/
theorem errorsWriteNoState : Obligations.ErrorsWriteNoState := by
  intro i s t h hcode
  rcases exec_answers h with ⟨v, hv⟩ | ⟨-, hrange⟩
  · exact absurd (by rw [hv]; rfl) hcode
  · exact hrange

/-! ### Edge and timer events commute -/

theorem advanceTo_answer (r : Response) (time : Nat) (s : State) :
    (s.answer r).advanceTo time = (s.advanceTo time).answer r := by
  unfold State.advanceTo
  dsimp only
  rw [apply_ite (State.answer r)]
  rfl

theorem atOverflow_answer (r : Response) (s : State) : (s.answer r).atOverflow = s.atOverflow.answer r := by
  unfold State.atOverflow
  rw [apply_ite (State.answer r), ← advanceTo_answer]
  rfl

theorem overflowNow_answer (r : Response) (s : State) : (s.answer r).overflowNow = s.overflowNow.answer r := by
  unfold State.overflowNow
  rw [apply_ite (State.answer r)]
  rfl

theorem atCompare_answer (r : Response) (s : State) : (s.answer r).atCompare = s.atCompare.answer r := by
  have hmark (u : State) : u.markCompared.answer r = (u.answer r).markCompared := rfl
  unfold State.atCompare
  rw [apply_ite (State.answer r), hmark, ← advanceTo_answer]
  rfl

/-- An edge event answers `OK` and writes the RX context (R141, R142, R149). -/
theorem exec_edgeEvent {i : Instr} {s t : State} (hi : isEdgeEvent i = true) (h : exec i s = .next t) :
    ∃ rx, t = (s.setRx rx).answer (.ok .nothing) ∧
      ∀ s' : State, s'.cfg = s.cfg → s'.rx = s.rx → exec i s' = .next ((s'.setRx rx).answer (.ok .nothing)) := by
  obtain ⟨hrx, hok⟩ : isRx i = true ∧ t.response = .ok .nothing := by
    cases i with
    | rxRise x => cases h; exact ⟨rfl, rfl⟩
    | rxFall x => obtain ⟨rx, -, rfl⟩ := finishRx_eq_next_iff.1 h; exact ⟨rfl, rfl⟩
    | rxPulse w => obtain ⟨rx, -, rfl⟩ := finishRx_eq_next_iff.1 h; exact ⟨rfl, rfl⟩
    | _ => cases hi
  obtain ⟨rx, r, rfl, hsame⟩ := exec_rx hrx h
  obtain rfl : r = .ok .nothing := hok
  exact ⟨rx, rfl, hsame⟩

/-- A timer event answers `OK`, whatever the answer before it was (R254, R255). -/
theorem exec_timerEvent {i : Instr} {s t : State} (hi : isTimerEvent i = true) (h : exec i s = .next t) :
    isTx i = true ∧ t.answer (.ok .nothing) = t ∧ ∀ r, exec i (s.answer r) = .next t := by
  cases i with
  | txOvf =>
    rw [exec_txOvf] at h
    cases h
    refine ⟨rfl, rfl, fun r => ?_⟩
    rw [exec_txOvf, atOverflow_answer, overflowNow_answer, State.answer_answer]
  | txCmp =>
    rw [exec_txCmp] at h
    cases h
    refine ⟨rfl, rfl, fun r => ?_⟩
    rw [exec_txCmp, atCompare_answer]
    rfl
  | _ => cases hi

/-- Settles O51: the edge event is a write of the RX context, which the timer event neither reads nor writes. -/
theorem edgeAndTimerEventsCommute : Obligations.EdgeAndTimerEventsCommute := by
  intro a b s s₁ s₂ ha hb h₁ h₂
  obtain ⟨rx, rfl, hsame⟩ := exec_edgeEvent ha h₁
  obtain ⟨htx, -, -⟩ := exec_timerEvent hb h₂
  obtain ⟨-, hok, hany⟩ := exec_timerEvent hb (exec_tx_setRx rx htx h₂)
  refine ⟨s₂.setRx rx, hany _, ?_⟩
  rw [hsame s₂ (exec_cfg_loopback h₂).1 (exec_tx_rx htx h₂), hok]

/-! ### Who issues what -/

/-- The consumer's column of R107: everything but the edge and the timer events (R312). -/
theorem mayIssue_consumer (i : Instr) (s : State) :
    mayIssue .consumer i s = (!isEdgeEvent i && !isTimerEvent i) := by
  cases i <;> rfl

/-- The edge source's column of R107: the edge events (R312). -/
theorem mayIssue_edge (i : Instr) (s : State) : mayIssue .edge i s = isEdgeEvent i := by
  cases i <;> rfl

/-- All that the edge source issues is a later edge of the line (R308 (d), log entry 14). -/
theorem isLaterEdge_edge (i : Instr) : isLaterEdge .edge i = isEdgeEvent i := by
  cases i <;> rfl

theorem isLaterEdge_of_not_edgeEvent {a : Agent} {i : Instr} (h : isEdgeEvent i = false) : isLaterEdge a i = false := by
  cases i with
  | rxRise x => cases h
  | rxFall x => cases h
  | rxPulse w => cases h
  | _ => rfl

/-- Only a timer event lets time go by (R318). -/
theorem takesTime_of_not_timerEvent {i : Instr} (h : isTimerEvent i = false) (s : State) : takesTime i s = false := by
  rw [← Bool.not_eq_true, takesTime_eq_true_iff, channelNext_eq_some_iff]
  rintro ⟨⟨-, ⟨-, rfl⟩ | ⟨-, rfl⟩⟩, -⟩ <;> cases h

/-- A single command word decodes to its operation, with nothing behind it (R110). -/
theorem decode_encode (i : Instr) : decode (encode i) = .ok (i, []) := by
  simpa using decodeReadsEveryEncodedOperation i []

/-- A word of an operation that its agent may not issue is refused, whatever is on its way (R312). -/
theorem step_of_not_issued {a : Agent} {i : Instr} {s : State} {rest : List Turn} (hr : reservedState s = none)
    (hp : s.pending = .command a (encode i) :: rest) (hi : mayIssue a i s = false) :
    step s = .refused (.notIssued a) := by
  have hi' : mayIssue a i { s with pending := rest } = false := hi
  have hw := turnWaits_of_commandWaits_false (a := a) (bytes := encode i) (s := { s with pending := rest })
    (by rw [commandWaits_of_decode_ok _ (decode_encode i), hi', Bool.false_and])
  rw [step_of_ready hr hp hw, takeTurn, runCommand, decode_encode]
  simp [issue, State.pushBytes, hi']

/-- Settles O52: `mayIssue_consumer` and `mayIssue_edge` say who issues what, O53's theorem what then runs. -/
theorem agentsIssueTheirOwnOperations : Obligations.AgentsIssueTheirOwnOperations := by
  refine fun i s rest hr =>
    ⟨fun hp => ⟨fun hi => ?_, fun he ht => ?_⟩, fun hp => ⟨fun hi he => ?_, fun hi => ?_, fun hi => ?_⟩⟩
  · refine step_of_not_issued hr hp ?_
    rw [mayIssue_consumer]
    rcases hi with hi | hi <;> simp [hi]
  · have hm : mayIssue .consumer i s = true := by simp [mayIssue_consumer, he, ht]
    exact (stepRunsTheDecodedOperation _ _ _ _ _ _ hr hp (decode_encode i) hm).1
      (.inr ⟨isLaterEdge_of_not_edgeEvent he, takesTime_of_not_timerEvent ht s⟩)
  · exact (stepRunsTheDecodedOperation _ _ _ _ _ _ hr hp (decode_encode i) ((mayIssue_edge i s).trans hi)).1 (.inl he)
  · exact (stepRunsTheDecodedOperation _ _ _ _ _ _ hr hp (decode_encode i) ((mayIssue_edge i s).trans hi)).2
      (.inl ((isLaterEdge_edge i).trans hi))
  · exact step_of_not_issued hr hp ((mayIssue_edge i s).trans hi)

/-! ### The turns of TIMER and EDGE -/

/-- The channel's turn waits for the transitions on their way where its event is later than now (R320). -/
theorem turnWaits_timer (s : State) :
    turnWaits .timer s = true ↔ s.edges ≠ [] ∧ s.ch.tmrEn = true ∧ s.now < nextEventTime s := by
  simp [turnWaits]

/-- A turn of the channel that need not wait is the channel's step (R318). -/
theorem step_timer {s : State} {rest : List Turn} (hr : reservedState s = none) (hp : s.pending = .timer :: rest)
    (h : s.edges = [] ∨ s.ch.tmrEn = false ∨ nextEventTime s ≤ s.now) :
    step s = channelStep { s with pending := rest } := by
  refine step_of_ready hr hp (Bool.eq_false_iff.2 fun hw => ?_)
  obtain ⟨he, hen, hlt⟩ := (turnWaits_timer _).1 hw
  rcases h with h | h | h
  · exact he h
  · exact absurd hen (by simp [h])
  · exact absurd h (Nat.not_le.2 hlt)

/-- Settles O37: the channel's turn is its step where it need not wait, and `compareDue` settles which event that is. -/
theorem channelEventIsDetermined : Obligations.ChannelEventIsDetermined := by
  refine fun s rest hr hp => ⟨fun hen h => ⟨fun hc => ?_, fun hc => ?_⟩, fun hen hlt e more he => ?_, fun hen => ?_⟩
  · rw [step_timer hr hp (h.imp_right .inr)]
    have hdue : compareDue s.ch = true := (compareDue_eq_true_iff _).2 ⟨hen, hc⟩
    exact channelStep_of_some ((channelNext_eq_some_iff _ _).2 ⟨hen, .inl ⟨hdue, rfl⟩⟩)
  · rw [step_timer hr hp (h.imp_right .inr)]
    have hdue : compareDue s.ch = false :=
      Bool.eq_false_iff.2 fun hdue => hc ((compareDue_eq_true_iff _).1 hdue).2
    exact channelStep_of_some ((channelNext_eq_some_iff _ _).2 ⟨hen, .inr ⟨hdue, rfl⟩⟩)
  · refine step_of_waiting hr hp he ((turnWaits_timer _).2 ⟨?_, hen, hlt⟩)
    exact ne_of_eq_of_ne he (List.cons_ne_nil _ _)
  · rw [step_timer hr hp (.inr (.inl hen))]
    exact channelStep_of_stopped hen

/-- A transition is RX.RISE or RX.FALL, by its direction, with its time modulo `2^32` (R319). -/
theorem edgeInstr_operand (d : EdgeDir) (time : Nat) :
    ∃ x : Timestamp, x.toNat = time % 2 ^ 32 ∧
      (d = .rising → edgeInstr d time = .rxRise x) ∧ (d = .falling → edgeInstr d time = .rxFall x) := by
  refine ⟨BitVec.ofNat 32 time, BitVec.toNat_ofNat _ _, ?_, ?_⟩
  · rintro rfl; rfl
  · rintro rfl; rfl

/-- Settles O44: EDGE's turn, and a step with no turn pending, delivers the oldest transition. -/
theorem loopedBackEdgesAreDeliveredInOrder : Obligations.LoopedBackEdgesAreDeliveredInOrder := by
  intro s e more rest hr he hturn
  have hstep : step s = exec (edgeInstr e.dir e.time) { s with edges := more, pending := rest } := by
    rcases hturn with hp | ⟨hp, rfl⟩
    · exact step_lineEdge hr hp he
    · rw [step_of_edge hr hp he, ← hp]
  obtain ⟨x, hx, hrise, hfall⟩ := edgeInstr_operand e.dir e.time
  exact ⟨x, hx, fun hd => by rw [hstep, hrise hd], fun hd => by rw [hstep, hfall hd]⟩

/-- A transition waits for the looped-back ones on their way (R308 (d)). -/
theorem turnWaits_transition {s : State} {d : EdgeDir} {time : Nat} {e : LineEdge} {more : List LineEdge}
    (he : s.edges = e :: more) : turnWaits (.transition d time) s = true := by
  simp [turnWaits, he]

/-- Settles O54: with none on its way the transition runs as its edge operation; else the oldest one comes first. -/
theorem transitionIsAnEdgeOperation : Obligations.TransitionIsAnEdgeOperation := by
  refine fun s T d rest hr hp => ⟨fun he => ?_, fun e more he => step_of_waiting hr hp he (turnWaits_transition he)⟩
  have hstep : step s = exec (edgeInstr d T) { s with pending := rest } :=
    step_of_ready hr hp (turnWaits_of_no_edges _ he)
  obtain ⟨x, hx, hrise, hfall⟩ := edgeInstr_operand d T
  exact ⟨x, hx, fun hd => by rw [hstep, hrise hd], fun hd => by rw [hstep, hfall hd]⟩

end Sys2Proof.Machine

namespace Sys2Proof.Machine

open Sys2Proof

/-! ## Reset, and waiting -/

/-! ### With no turn pending -/

/-- With nothing pending, no transition on its way and the channel stopped, a step changes nothing (R313, R351). -/
theorem step_of_idle {s : State} (hr : reservedState s = none) (hp : s.pending = []) (he : s.edges = [])
    (hen : s.ch.tmrEn = false) : step s = .next s :=
  (step_of_none_pending hr hp he).trans (channelStep_of_stopped hen)

/-- A state whose step changes nothing is kept by every run. -/
theorem reaches_self_of_step {s : State} (h : step s = .next s) (k : Nat) : Reaches k s s := by
  induction k with
  | zero => exact .refl s
  | succ k ih => exact .head h ih

/-- The block waits after reset (R351). -/
theorem step_stateReset : step State.reset = .next State.reset :=
  step_of_idle (by decide) rfl rfl rfl

/-- Settles O57: the step is the channel's, which has an event exactly while it runs; a run from reset by induction on
the steps. -/
theorem blockWaitsForEvents : Obligations.BlockWaitsForEvents :=
  ⟨fun _ hr hp he hen => step_of_idle hr hp he hen, reaches_self_of_step step_stateReset,
    fun _ _ hr hp he hi => (step_of_none_pending hr hp he).trans (channelStep_of_some hi)⟩

/-! ### The RESET agent's turn -/

/-- RESET's turn never waits for the transitions on their way: it is the reset of the block (R350). -/
theorem step_resetTurn {s : State} {rest : List Turn} (hr : reservedState s = none) (hp : s.pending = .reset :: rest) :
    step s = .next (resetBlock { s with pending := rest }) :=
  step_of_ready hr hp (Bool.and_false _)

/-- Reset adds no transition where the line is not looped back or is low already (R320). -/
theorem resetBlock_edges_of_no_fall {s : State} (h : s.loopback = false ∨ s.ch.tmrOut = false) :
    (resetBlock s).edges = s.edges := by
  rw [resetBlock, State.driveChannel_edges]
  rcases h with hloop | hlow
  · simp [hloop]
  · simp [hlow, Channel.reset]

/-- Settles O56: reset writes R56's values, which are TX.INIT's for the TX unit and the channel, and otherwise at most the
transitions on their way. -/
theorem resetTurnResetsTheBlock : Obligations.ResetTurnResetsTheBlock := by
  intro s rest hr hp
  obtain ⟨hrx, -⟩ := (reservedState_eq_none_iff s).1 hr
  obtain ⟨u, hinit⟩ := exec_next_of_legal .txInit hrx
  obtain ⟨htx, hch⟩ := exec_txInit_resets hinit
  exact ⟨_, u, step_resetTurn hr hp, rfl, hinit, htx.symm, hch.symm, rfl, rfl, rfl, rfl, rfl, rfl, rfl, rfl,
    fun h => resetBlock_edges_of_no_fall (s := { s with pending := rest }) h⟩

end Sys2Proof.Machine
